-- ==== Sys2Proof/Word.lean ====
section
/-! DEFINITION. The value types of the operands (R6, 00_scope.md) and nothing that computes. -/

namespace Sys2Proof

/-- A byte of a serialised image (R41). The block itself has no bytes. -/
abbrev Byte := BitVec 8

/-- `Half`: a 16-bit word, one cell of the buffer (R6, R21); also `Base16`. -/
abbrev Half := BitVec 16

/-- A 32-bit instruction word, bits 31:16 its high halfword (R5); also `Base32`. -/
abbrev Word32 := BitVec 32

/-- `Reg`: names a register r0 to r15 of the target; holds no data in the block (R6, R20). Its width is the document's
`REG_W` (R4, `Config.regW`). -/
abbrev Reg := BitVec 4

/-- `Imm`: a 32-bit pattern, never range-checked (R6). Its width is `IMM_W` (R4, `Config.immW`). -/
abbrev Imm := BitVec 32

/-- `Disp`: a signed byte offset as its 32-bit two's-complement pattern (R6, R140). Its width is
`DISP_W` (R4, `Config.dispW`). -/
abbrev Disp := BitVec 32

end Sys2Proof
end

