-- ==== Sys2Proof/Syntax.lean ====
section
/-! DEFINITION. The commands of the block as syntax: `Packer` (the 21 packer commands of R60), `Instr` (the rows of
spec/opcode_table.json), the value types they carry, and the format tags. No command has a binary encoding
(R172, 91_not_in_source.md N2), so these are inductive types without numbers. -/

namespace Sys2Proof

/-- `ShiftType` (R6): an enumeration without a numeric code of its own. -/
inductive ShiftType
  | lsl | lsr | asr | ror | rrx
  /-- No shift: "used only by formats with no shift field" (R69). -/
  | none
  deriving DecidableEq, Repr

/-- The two error kinds of `Opcode.error` (R93, R170). -/
inductive ErrorKind
  /-- A register above 7 was offered to a 3-bit field (R109). -/
  | registerOutOfRange
  /-- A format and operand combination the packer cannot represent (R81). -/
  | encodeError
  deriving DecidableEq, Repr

/-- `Opcode` (R93): what a packer returns and APPEND takes. `error` carries no bits (R94). -/
inductive Opcode
  | thumb16 (word : Half)
  | thumb32 (high low : Half)
  | error (kind : ErrorKind)
  deriving DecidableEq, Repr

/-- The format tags: one for each packer row of spec/opcode_table.json (`T16.imm` has three rows, one a width). -/
inductive Format
  | t16NoOperand | t16Imm7 | t16Imm8 | t16Imm11 | t16RegImm8 | t16RegImm5 | t16TwoLow | t16ThreeLow
  | t16TwoLowImm3 | t16OneAny | t16TwoAny
  | t32NoOperand | t32OneRegImm12 | t32TwoRegImm12 | t32TwoRegImm12Sf | t32TwoRegImm5Sf | t32TwoRegImm5Shift
  | t32TwoRegImm5ShiftSf | t32ThreeReg | t32ThreeRegSf | t32ThreeRegImm5ShiftSf | t32Branch | t32CondBranch
  deriving DecidableEq, Repr

/-- The 21 packer commands (R60, rows 1 to 21), the operand of EMIT (R156). `t16Imm` takes its width as an operand,
as R101 gives it. -/
inductive Packer
  | t16NoOperand (base : Half)
  | t16Imm (base : Half) (width : Nat) (imm : Imm)
  | t16RegImm8 (base : Half) (rd : Reg) (imm8 : Imm)
  | t16RegImm5 (base : Half) (rd rm : Reg) (imm5 : Imm)
  | t16TwoLow (base : Half) (rd rm : Reg)
  | t16ThreeLow (base : Half) (rd rn rm : Reg)
  | t16TwoLowImm3 (base : Half) (rd rm : Reg) (imm3 : Imm)
  | t16OneAny (base : Half) (rm : Reg)
  | t16TwoAny (base : Half) (r1 r2 : Reg)
  | t32NoOperand (base : Word32)
  | t32OneRegImm12 (base : Word32) (rd : Reg) (imm12 : Imm)
  | t32TwoRegImm12 (base : Word32) (rd rn : Reg) (imm12 : Imm)
  | t32TwoRegImm12Sf (base : Word32) (rd rn : Reg) (imm12 : Imm) (sf : Bool)
  | t32TwoRegImm5Sf (base : Word32) (rd rn : Reg) (imm5 : Imm) (sf : Bool)
  | t32TwoRegImm5Shift (base : Word32) (rd rn : Reg) (imm5 : Imm) (shift : ShiftType)
  | t32TwoRegImm5ShiftSf (base : Word32) (rd rn : Reg) (imm5 : Imm) (shift : ShiftType) (sf : Bool)
  | t32ThreeReg (base : Word32) (rd rn rm : Reg)
  | t32ThreeRegSf (base : Word32) (rd rn rm : Reg) (sf : Bool)
  | t32ThreeRegImm5ShiftSf (base : Word32) (rd rn rm : Reg) (imm5 : Imm) (shift : ShiftType) (sf : Bool)
  | t32Branch (base : Word32) (displacement : Disp)
  | t32CondBranch (base : Word32) (displacement : Disp)
  deriving DecidableEq, Repr

/-- The commands, one constructor for each row of spec/opcode_table.json, and `t16ImmOther`: `T16.imm` given a width
that none of its three rows has (R101; log 8). The sequence operand `seq` of APPEND, DRAIN and EMIT is the block's
own (R28). -/
inductive Instr
  | t16NoOperand (base : Half)
  | t16Imm7 (base : Half) (imm : Imm)
  | t16Imm8 (base : Half) (imm : Imm)
  | t16Imm11 (base : Half) (imm : Imm)
  | t16ImmOther (base : Half) (width : Nat) (imm : Imm)
  | t16RegImm8 (base : Half) (rd : Reg) (imm8 : Imm)
  | t16RegImm5 (base : Half) (rd rm : Reg) (imm5 : Imm)
  | t16TwoLow (base : Half) (rd rm : Reg)
  | t16ThreeLow (base : Half) (rd rn rm : Reg)
  | t16TwoLowImm3 (base : Half) (rd rm : Reg) (imm3 : Imm)
  | t16OneAny (base : Half) (rm : Reg)
  | t16TwoAny (base : Half) (r1 r2 : Reg)
  | t32NoOperand (base : Word32)
  | t32OneRegImm12 (base : Word32) (rd : Reg) (imm12 : Imm)
  | t32TwoRegImm12 (base : Word32) (rd rn : Reg) (imm12 : Imm)
  | t32TwoRegImm12Sf (base : Word32) (rd rn : Reg) (imm12 : Imm) (sf : Bool)
  | t32TwoRegImm5Sf (base : Word32) (rd rn : Reg) (imm5 : Imm) (sf : Bool)
  | t32TwoRegImm5Shift (base : Word32) (rd rn : Reg) (imm5 : Imm) (shift : ShiftType)
  | t32TwoRegImm5ShiftSf (base : Word32) (rd rn : Reg) (imm5 : Imm) (shift : ShiftType) (sf : Bool)
  | t32ThreeReg (base : Word32) (rd rn rm : Reg)
  | t32ThreeRegSf (base : Word32) (rd rn rm : Reg) (sf : Bool)
  | t32ThreeRegImm5ShiftSf (base : Word32) (rd rn rm : Reg) (imm5 : Imm) (shift : ShiftType) (sf : Bool)
  | t32Branch (base : Word32) (displacement : Disp)
  | t32CondBranch (base : Word32) (displacement : Disp)
  | create (capacity : Nat)
  | append (opcode : Opcode)
  | drain
  | emit (packer : Packer)
  | movImm (rd : Reg) (imm8 : Imm)
  | addThreeLow (rd rn rm : Reg)
  deriving DecidableEq, Repr

/-- The packer command an instruction is (R60); none for the four buffer commands. The two mnemonic rows bind the
base of R84 and forward their operands (R85). -/
def Instr.asPacker : Instr → Option Packer
  | .t16NoOperand base => some (.t16NoOperand base)
  | .t16Imm7 base imm => some (.t16Imm base 7 imm)
  | .t16Imm8 base imm => some (.t16Imm base 8 imm)
  | .t16Imm11 base imm => some (.t16Imm base 11 imm)
  | .t16ImmOther base width imm => some (.t16Imm base width imm)
  | .t16RegImm8 base rd imm8 => some (.t16RegImm8 base rd imm8)
  | .t16RegImm5 base rd rm imm5 => some (.t16RegImm5 base rd rm imm5)
  | .t16TwoLow base rd rm => some (.t16TwoLow base rd rm)
  | .t16ThreeLow base rd rn rm => some (.t16ThreeLow base rd rn rm)
  | .t16TwoLowImm3 base rd rm imm3 => some (.t16TwoLowImm3 base rd rm imm3)
  | .t16OneAny base rm => some (.t16OneAny base rm)
  | .t16TwoAny base r1 r2 => some (.t16TwoAny base r1 r2)
  | .t32NoOperand base => some (.t32NoOperand base)
  | .t32OneRegImm12 base rd imm12 => some (.t32OneRegImm12 base rd imm12)
  | .t32TwoRegImm12 base rd rn imm12 => some (.t32TwoRegImm12 base rd rn imm12)
  | .t32TwoRegImm12Sf base rd rn imm12 sf => some (.t32TwoRegImm12Sf base rd rn imm12 sf)
  | .t32TwoRegImm5Sf base rd rn imm5 sf => some (.t32TwoRegImm5Sf base rd rn imm5 sf)
  | .t32TwoRegImm5Shift base rd rn imm5 shift => some (.t32TwoRegImm5Shift base rd rn imm5 shift)
  | .t32TwoRegImm5ShiftSf base rd rn imm5 shift sf => some (.t32TwoRegImm5ShiftSf base rd rn imm5 shift sf)
  | .t32ThreeReg base rd rn rm => some (.t32ThreeReg base rd rn rm)
  | .t32ThreeRegSf base rd rn rm sf => some (.t32ThreeRegSf base rd rn rm sf)
  | .t32ThreeRegImm5ShiftSf base rd rn rm imm5 shift sf => some (.t32ThreeRegImm5ShiftSf base rd rn rm imm5 shift sf)
  | .t32Branch base d => some (.t32Branch base d)
  | .t32CondBranch base d => some (.t32CondBranch base d)
  | .create _ => none
  | .append _ => none
  | .drain => none
  | .emit _ => none
  | .movImm rd imm8 => some (.t16RegImm8 0x2000 rd imm8)
  | .addThreeLow rd rn rm => some (.t16ThreeLow 0x1800 rd rn rm)

end Sys2Proof
end

