-- ==== Sys2Proof/Config.lean ====
section
/-! DEFINITION. The implementation parameters of R4 (00_scope.md) as one record, a field each. -/

namespace Sys2Proof

/-- `SHIFT_PAIR_POLICY` (R4, R130): what a shift packer does with (ROR, 0) and (RRX, non-zero). -/
inductive ShiftPairPolicy
  | preserve | reject
  deriving DecidableEq, Repr

/-- `NONE_SHIFT_POLICY` (R4, R130): what a shift packer does with ShiftType NONE. -/
inductive NoneShiftPolicy
  | encodeError | zeroBits
  deriving DecidableEq, Repr

/-- `TARGET_BYTE_ORDER` (R4, R41): used by the external serialiser only. -/
inductive ByteOrder
  | little | big
  deriving DecidableEq, Repr

/-- A base opcode of the mnemonic table: "16-bit or 32-bit unsigned constant" (R84). -/
inductive BaseOpcode
  | base16 (base : Half)
  | base32 (base : Word32)
  deriving DecidableEq, Repr

/-- A record `mnemonic, base_opcode, format` of the external mnemonic table (R84). -/
structure MnemonicRow where
  mnemonic : String
  base : BaseOpcode
  format : Format
  deriving DecidableEq, Repr

/-- The parameters of R4, in its order. No command writes one. -/
structure Config where
  /-- `CAPACITY`: the number of halfwords the host gives at CREATE; none where each CREATE is free to give its own
  ("a natural number given at CREATE, fixed until the next CREATE"). What the buffer has is `Sequence.capacity` (R23). -/
  capacity : Option Nat
  /-- `ADDR_W`: OPEN; none where no physical width is fixed; no rule depends on it (R4, R153). -/
  addrW : Option Nat
  /-- `REG_W`: the width of a register operand port (D2). A command fits the ports or cannot be issued (R12; log 15). -/
  regW : Nat
  /-- `IMM_W`: the width of an immediate operand port (D3). -/
  immW : Nat
  /-- `DISP_W`: the width of the displacement operand port (D7). -/
  dispW : Nat
  /-- `DISP_S_BIT`: the displacement bit that is S (R141). -/
  dispSBit : Fin 32
  /-- `DISP_I1_BIT` (R141). -/
  dispI1Bit : Fin 32
  /-- `DISP_I2_BIT` (R141). -/
  dispI2Bit : Fin 32
  shiftPairPolicy : ShiftPairPolicy
  noneShiftPolicy : NoneShiftPolicy
  targetByteOrder : ByteOrder
  /-- `MNEMONIC_TABLE`: OPEN; no rule of the block reads it (R84). -/
  mnemonicTable : List MnemonicRow
  /-- `IMAGE_BASE`: OPEN; none where no address is fixed; used by no rule (R4, R45). -/
  imageBase : Option Nat
  deriving DecidableEq, Repr

/-- The two rows of the mnemonic table that the document gives (R84). -/
def knownMnemonicRows : List MnemonicRow :=
  [⟨"mov imm", .base16 0x2000, .t16RegImm8⟩, ⟨"add three-low", .base16 0x1800, .t16ThreeLow⟩]

/-- The document values and default policies of R4. `targetByteOrder` little is PRESUMED by the spec (G2; log 10); the
OPEN parameters carry no chosen value (log 7). -/
def Config.document : Config where
  capacity := none
  addrW := none
  regW := 4
  immW := 32
  dispW := 32
  dispSBit := 25
  dispI1Bit := 24
  dispI2Bit := 23
  shiftPairPolicy := .preserve
  noneShiftPolicy := .encodeError
  targetByteOrder := .little
  mnemonicTable := knownMnemonicRows
  imageBase := none

end Sys2Proof
end

