-- ==== Sys2Proof/WellFormed.lean ====
section
/-! DEFINITION. What the host owes the block before it issues a command (R192, 70_reset_and_hazards.md). The block checks
none of this beyond the errors of R171 (R82): `step` performs ill-formed commands too, as the rules say (log 18). The
round trip of Decode.lean holds of well-formed commands. -/

namespace Sys2Proof

/-- The bits of the word an operand of the format can reach: "operand_mask" of spec/opcode_table.json, the letters other
than `b` in R63 and R64. A 16-bit format has no bit above 15. -/
def Format.operandMask : Format → Word32
  | .t16NoOperand => 0x0000
  | .t16Imm7 => 0x007F
  | .t16Imm8 => 0x00FF
  | .t16Imm11 => 0x07FF
  | .t16RegImm8 => 0x07FF
  | .t16RegImm5 => 0x07FF
  | .t16TwoLow => 0x003F
  | .t16ThreeLow => 0x01FF
  | .t16TwoLowImm3 => 0x01FF
  | .t16OneAny => 0x0078
  | .t16TwoAny => 0x00FF
  | .t32NoOperand => 0x00000000
  | .t32OneRegImm12 => 0x04007FFF
  | .t32TwoRegImm12 => 0x040F7FFF
  | .t32TwoRegImm12Sf => 0x041F7FFF
  | .t32TwoRegImm5Sf => 0x00107FCF
  | .t32TwoRegImm5Shift => 0x00007FFF
  | .t32TwoRegImm5ShiftSf => 0x00107FFF
  | .t32ThreeReg => 0x000F0F0F
  | .t32ThreeRegSf => 0x001F0F0F
  | .t32ThreeRegImm5ShiftSf => 0x001F7FFF
  | .t32Branch => 0x07FF2FFF
  | .t32CondBranch => 0x07FF2FFF

/-- "zero in every field position of its format" (R192), for a 16-bit base. -/
def baseClear16 (f : Format) (base : Half) : Bool := base &&& f.operandMask.setWidth 16 == 0

/-- "zero in every field position of its format" (R192), for a 32-bit base. -/
def baseClear32 (f : Format) (base : Word32) : Bool := base &&& f.operandMask == 0

/-- The register may go into a 3-bit field (R65, R109). -/
def lowOperand (r : Reg) : Bool := r.toNat < 8

/-- The immediate has no bit above its field, so that masking loses nothing (R66, R196). -/
def fits (width : Nat) (v : Imm) : Bool := v.toNat < 2 ^ width

/-- A shift operand the target reads as it is meant: not NONE (R130), ROR with a non-zero amount, RRX with zero
(R69, R197). -/
def shiftOperandOk : ShiftType → Imm → Bool
  | .none, _ => false
  | .ror, imm5 => imm5 &&& 0x1F != 0
  | .rrx, imm5 => imm5 &&& 0x1F == 0
  | .lsl, _ | .lsr, _ | .asr, _ => true

/-- The displacement bits that R141 reads. -/
def Config.readsDispBit (cfg : Config) (n : Nat) : Bool :=
  n == cfg.dispSBit.val || n == cfg.dispI1Bit.val || n == cfg.dispI2Bit.val
    || (decide (12 ≤ n) && decide (n ≤ 21)) || (decide (1 ≤ n) && decide (n ≤ 11))

/-- `representable(d)` (R145): bit 0 is 0 and every other bit that R141 does not read equals the sign bit S. Bit 0 itself
is not read by R141 and is not among the "other" bits, as R144 spells out (DEDUCED, log 17). -/
def representable (cfg : Config) (d : Disp) : Bool :=
  !d.getLsbD 0 && (List.range 32).all fun n => n == 0 || cfg.readsDispBit n || d.getLsbD n == d.getLsbD cfg.dispSBit.val

/-- A capacity the cursor register can count to: `CAPACITY < 2^ADDR_W`, where a width is fixed (R4). -/
def Config.fitsCursor (cfg : Config) (capacity : Nat) : Bool :=
  match cfg.addrW with
  | none => true
  | some w => capacity < 2 ^ w

/-- A capacity that CREATE can be given: `CAPACITY`, where the configuration fixes it, and within the cursor register
(R4, R150). -/
def Config.admitsCapacity (cfg : Config) (capacity : Nat) : Bool :=
  cfg.fitsCursor capacity && cfg.capacity.all (· == capacity)

/-- A packer command that meets the host's obligations. -/
def Packer.wellFormed (cfg : Config) : Packer → Bool
  | .t16NoOperand _ => true
  | .t16Imm base 7 imm => baseClear16 .t16Imm7 base && fits 7 imm
  | .t16Imm base 8 imm => baseClear16 .t16Imm8 base && fits 8 imm
  | .t16Imm base 11 imm => baseClear16 .t16Imm11 base && fits 11 imm
  | .t16Imm _ _ _ => false
  | .t16RegImm8 base rd imm8 => baseClear16 .t16RegImm8 base && lowOperand rd && fits 8 imm8
  | .t16RegImm5 base rd rm imm5 => baseClear16 .t16RegImm5 base && lowOperand rd && lowOperand rm && fits 5 imm5
  | .t16TwoLow base rd rm => baseClear16 .t16TwoLow base && lowOperand rd && lowOperand rm
  | .t16ThreeLow base rd rn rm => baseClear16 .t16ThreeLow base && lowOperand rd && lowOperand rn && lowOperand rm
  | .t16TwoLowImm3 base rd rm imm3 => baseClear16 .t16TwoLowImm3 base && lowOperand rd && lowOperand rm && fits 3 imm3
  | .t16OneAny base _ => baseClear16 .t16OneAny base
  | .t16TwoAny base _ _ => baseClear16 .t16TwoAny base
  | .t32NoOperand _ => true
  | .t32OneRegImm12 base _ imm12 => baseClear32 .t32OneRegImm12 base && fits 12 imm12
  | .t32TwoRegImm12 base _ _ imm12 => baseClear32 .t32TwoRegImm12 base && fits 12 imm12
  | .t32TwoRegImm12Sf base _ _ imm12 _ => baseClear32 .t32TwoRegImm12Sf base && fits 12 imm12
  | .t32TwoRegImm5Sf base _ _ imm5 _ => baseClear32 .t32TwoRegImm5Sf base && fits 5 imm5
  | .t32TwoRegImm5Shift base _ _ imm5 shift =>
    baseClear32 .t32TwoRegImm5Shift base && fits 5 imm5 && shiftOperandOk shift imm5
  | .t32TwoRegImm5ShiftSf base _ _ imm5 shift _ =>
    baseClear32 .t32TwoRegImm5ShiftSf base && fits 5 imm5 && shiftOperandOk shift imm5
  | .t32ThreeReg base _ _ _ => baseClear32 .t32ThreeReg base
  | .t32ThreeRegSf base _ _ _ _ => baseClear32 .t32ThreeRegSf base
  | .t32ThreeRegImm5ShiftSf base _ _ _ imm5 shift _ =>
    baseClear32 .t32ThreeRegImm5ShiftSf base && fits 5 imm5 && shiftOperandOk shift imm5
  | .t32Branch base d => baseClear32 .t32Branch base && representable cfg d
  | .t32CondBranch base d => baseClear32 .t32CondBranch base && representable cfg d

/-- A command that meets the host's obligations. `t16ImmOther` never does: the three legal widths of `T16.imm` have
constructors of their own (R101; log 8). Passing an `Error` on to APPEND is allowed (R176). -/
def Instr.wellFormed (cfg : Config) : Instr → Bool
  | .t16NoOperand base => Packer.wellFormed cfg (.t16NoOperand base)
  | .t16Imm7 base imm => Packer.wellFormed cfg (.t16Imm base 7 imm)
  | .t16Imm8 base imm => Packer.wellFormed cfg (.t16Imm base 8 imm)
  | .t16Imm11 base imm => Packer.wellFormed cfg (.t16Imm base 11 imm)
  | .t16ImmOther _ _ _ => false
  | .t16RegImm8 base rd imm8 => Packer.wellFormed cfg (.t16RegImm8 base rd imm8)
  | .t16RegImm5 base rd rm imm5 => Packer.wellFormed cfg (.t16RegImm5 base rd rm imm5)
  | .t16TwoLow base rd rm => Packer.wellFormed cfg (.t16TwoLow base rd rm)
  | .t16ThreeLow base rd rn rm => Packer.wellFormed cfg (.t16ThreeLow base rd rn rm)
  | .t16TwoLowImm3 base rd rm imm3 => Packer.wellFormed cfg (.t16TwoLowImm3 base rd rm imm3)
  | .t16OneAny base rm => Packer.wellFormed cfg (.t16OneAny base rm)
  | .t16TwoAny base r1 r2 => Packer.wellFormed cfg (.t16TwoAny base r1 r2)
  | .t32NoOperand base => Packer.wellFormed cfg (.t32NoOperand base)
  | .t32OneRegImm12 base rd imm12 => Packer.wellFormed cfg (.t32OneRegImm12 base rd imm12)
  | .t32TwoRegImm12 base rd rn imm12 => Packer.wellFormed cfg (.t32TwoRegImm12 base rd rn imm12)
  | .t32TwoRegImm12Sf base rd rn imm12 sf => Packer.wellFormed cfg (.t32TwoRegImm12Sf base rd rn imm12 sf)
  | .t32TwoRegImm5Sf base rd rn imm5 sf => Packer.wellFormed cfg (.t32TwoRegImm5Sf base rd rn imm5 sf)
  | .t32TwoRegImm5Shift base rd rn imm5 shift => Packer.wellFormed cfg (.t32TwoRegImm5Shift base rd rn imm5 shift)
  | .t32TwoRegImm5ShiftSf base rd rn imm5 shift sf =>
    Packer.wellFormed cfg (.t32TwoRegImm5ShiftSf base rd rn imm5 shift sf)
  | .t32ThreeReg base rd rn rm => Packer.wellFormed cfg (.t32ThreeReg base rd rn rm)
  | .t32ThreeRegSf base rd rn rm sf => Packer.wellFormed cfg (.t32ThreeRegSf base rd rn rm sf)
  | .t32ThreeRegImm5ShiftSf base rd rn rm imm5 shift sf =>
    Packer.wellFormed cfg (.t32ThreeRegImm5ShiftSf base rd rn rm imm5 shift sf)
  | .t32Branch base d => Packer.wellFormed cfg (.t32Branch base d)
  | .t32CondBranch base d => Packer.wellFormed cfg (.t32CondBranch base d)
  | .create capacity => cfg.admitsCapacity capacity
  | .append _ => true
  | .drain => true
  | .emit p => p.wellFormed cfg
  | .movImm rd imm8 => lowOperand rd && fits 8 imm8
  | .addThreeLow rd rn rm => lowOperand rd && lowOperand rn && lowOperand rm

/-! ### The operand ports (R4, R12) -/

/-- The register operands of a packer command. -/
def Packer.registers : Packer → List Reg
  | .t16NoOperand _ | .t16Imm _ _ _ | .t32NoOperand _ | .t32Branch _ _ | .t32CondBranch _ _ => []
  | .t16RegImm8 _ rd _ | .t32OneRegImm12 _ rd _ => [rd]
  | .t16OneAny _ rm => [rm]
  | .t16RegImm5 _ rd rm _ | .t16TwoLow _ rd rm | .t16TwoLowImm3 _ rd rm _ => [rd, rm]
  | .t16TwoAny _ r1 r2 => [r1, r2]
  | .t32TwoRegImm12 _ rd rn _ | .t32TwoRegImm12Sf _ rd rn _ _ | .t32TwoRegImm5Sf _ rd rn _ _
  | .t32TwoRegImm5Shift _ rd rn _ _ | .t32TwoRegImm5ShiftSf _ rd rn _ _ _ => [rd, rn]
  | .t16ThreeLow _ rd rn rm | .t32ThreeReg _ rd rn rm | .t32ThreeRegSf _ rd rn rm _
  | .t32ThreeRegImm5ShiftSf _ rd rn rm _ _ _ => [rd, rn, rm]

/-- The immediate operands of a packer command. -/
def Packer.immediates : Packer → List Imm
  | .t16Imm _ _ v | .t16RegImm8 _ _ v | .t16RegImm5 _ _ _ v | .t16TwoLowImm3 _ _ _ v | .t32OneRegImm12 _ _ v
  | .t32TwoRegImm12 _ _ _ v | .t32TwoRegImm12Sf _ _ _ v _ | .t32TwoRegImm5Sf _ _ _ v _ | .t32TwoRegImm5Shift _ _ _ v _
  | .t32TwoRegImm5ShiftSf _ _ _ v _ _ | .t32ThreeRegImm5ShiftSf _ _ _ _ v _ _ => [v]
  | .t16NoOperand _ | .t16TwoLow _ _ _ | .t16ThreeLow _ _ _ _ | .t16OneAny _ _ | .t16TwoAny _ _ _ | .t32NoOperand _
  | .t32ThreeReg _ _ _ _ | .t32ThreeRegSf _ _ _ _ _ | .t32Branch _ _ | .t32CondBranch _ _ => []

/-- The displacement operands of a packer command. -/
def Packer.displacements : Packer → List Disp
  | .t32Branch _ d | .t32CondBranch _ d => [d]
  | .t16NoOperand _ | .t16Imm _ _ _ | .t16RegImm8 _ _ _ | .t16RegImm5 _ _ _ _ | .t16TwoLow _ _ _ | .t16ThreeLow _ _ _ _
  | .t16TwoLowImm3 _ _ _ _ | .t16OneAny _ _ | .t16TwoAny _ _ _ | .t32NoOperand _ | .t32OneRegImm12 _ _ _
  | .t32TwoRegImm12 _ _ _ _ | .t32TwoRegImm12Sf _ _ _ _ _ | .t32TwoRegImm5Sf _ _ _ _ _ | .t32TwoRegImm5Shift _ _ _ _ _
  | .t32TwoRegImm5ShiftSf _ _ _ _ _ _ | .t32ThreeReg _ _ _ _ | .t32ThreeRegSf _ _ _ _ _
  | .t32ThreeRegImm5ShiftSf _ _ _ _ _ _ _ => []

/-- Each operand is within its port: registers below `2^REG_W`, immediates below `2^IMM_W`, displacements in the
`DISP_W`-bit two's-complement range (R4, R6). -/
def Packer.fitsPorts (cfg : Config) (p : Packer) : Bool :=
  p.registers.all (fun r => decide (r.toNat < 2 ^ cfg.regW)) &&
    p.immediates.all (fun v => decide (v.toNat < 2 ^ cfg.immW)) &&
      p.displacements.all fun d => decide (-2 ^ cfg.dispW ≤ 2 * d.toInt ∧ 2 * d.toInt < 2 ^ cfg.dispW)

/-- The command can be put on the ports: "an operand outside its port type ... the command cannot be issued" (R12). At
the spec's widths every `Instr` can; narrower ports make some inexpressible, which is the host's side of the port and no
outcome of a command (log 15). -/
def Instr.fitsPorts (cfg : Config) (i : Instr) : Bool :=
  match i with
  | .emit p => p.fitsPorts cfg
  | .create _ | .append _ | .drain => true
  | .t16NoOperand .. | .t16Imm7 .. | .t16Imm8 .. | .t16Imm11 .. | .t16ImmOther .. | .t16RegImm8 .. | .t16RegImm5 ..
  | .t16TwoLow .. | .t16ThreeLow .. | .t16TwoLowImm3 .. | .t16OneAny .. | .t16TwoAny .. | .t32NoOperand ..
  | .t32OneRegImm12 .. | .t32TwoRegImm12 .. | .t32TwoRegImm12Sf .. | .t32TwoRegImm5Sf .. | .t32TwoRegImm5Shift ..
  | .t32TwoRegImm5ShiftSf .. | .t32ThreeReg .. | .t32ThreeRegSf .. | .t32ThreeRegImm5ShiftSf .. | .t32Branch ..
  | .t32CondBranch .. | .movImm .. | .addThreeLow .. => i.asPacker.all (Packer.fitsPorts cfg)

end Sys2Proof
end

