-- ==== Sys2Proof/Decode.lean ====
section
/-! DEFINITION. The words and the commands that stand for them. The commands have no binary encoding (R172); the words
with bit layouts are the ones the packers PRODUCE (30_encoding.md), and these are what is decoded and encoded here
(log 9):

- `decode`, on any bytes: the command that produces exactly these words. A mnemonic row of R84 where one matches, else
  the `no_operand` packer, whose base is the word.
- `decodeAs`, with the format tag known (it "travels with the value", R61): each field read off its place (R63, R64), the
  base what remains. This is the reading of R110, R144 and of property T5 of 95_test_vectors.md.
- `encode`: the words, from the field tables of R63 and R64; it calls no packer of Machine/. -/

namespace Sys2Proof

/-- Why bytes or words are not decoded. -/
inductive DecodeError
  /-- No byte at all. -/
  | empty
  /-- A halfword is two bytes (R41). -/
  | oddByteCount
  /-- An opcode is one or two halfwords (R61). -/
  | tooLong
  /-- The format tag asks for the other length (R61). -/
  | wrongLength
  deriving DecidableEq, Repr

/-! ### Bytes, halfwords and words -/

/-- The two bytes of a halfword in the order given (R41): for `little`, byte 2k is bits 7:0. -/
def halfBytes (order : ByteOrder) (h : Half) : List Byte :=
  match order with
  | .little => [h.setWidth 8, (h >>> 8).setWidth 8]
  | .big => [(h >>> 8).setWidth 8, h.setWidth 8]

/-- The external serialiser (R41): the drained halfwords as bytes, in index order. -/
def serialise (order : ByteOrder) : List Half → List Byte
  | [] => []
  | h :: hs => halfBytes order h ++ serialise order hs

/-- The halfwords of a little-endian image, low byte first (R41). -/
def halvesOfBytes : List Byte → Except DecodeError (List Half)
  | [] => .ok []
  | [_] => .error .oddByteCount
  | lo :: hi :: rest =>
    match halvesOfBytes rest with
    | .ok hs => .ok ((hi.setWidth 16 <<< 8 ||| lo.setWidth 16) :: hs)
    | .error e => .error e

/-- `hi16(w)` (R7). -/
def hi16 (w : Word32) : Half := (w >>> 16).setWidth 16

/-- `lo16(w)` (R7). -/
def lo16 (w : Word32) : Half := w.setWidth 16

/-- The 32-bit word of its two halfwords, `(high << 16) | low` (R95). -/
def joinHalves (hi lo : Half) : Word32 := hi.setWidth 32 <<< 16 ||| lo.setWidth 32

/-! ### Fields -/

/-- A field of a layout: its lowest bit and its width. -/
structure Slot where
  lo : Nat
  width : Nat
  deriving DecidableEq, Repr

/-- A value masked to the field's width, in place (R62). -/
def putSlot (f : Slot) (v : Word32) : Word32 := (v.setWidth f.width).setWidth 32 <<< f.lo

/-- The number in a field of `w`, `w[hi:lo]` of R7. -/
def getSlot (lo width : Nat) (w : Word32) : Word32 := (w.extractLsb' lo width).setWidth 32

/-- The bits a field covers. -/
def slotMask (f : Slot) : Word32 := putSlot f (BitVec.allOnes 32)

/-- The field tables of R63 and R64, in the order of `fieldValues`. -/
def formatSlots : Format → List Slot
  | .t16NoOperand => []
  | .t16Imm7 => [⟨0, 7⟩]
  | .t16Imm8 => [⟨0, 8⟩]
  | .t16Imm11 => [⟨0, 11⟩]
  | .t16RegImm8 => [⟨8, 3⟩, ⟨0, 8⟩]
  | .t16RegImm5 => [⟨0, 3⟩, ⟨3, 3⟩, ⟨6, 5⟩]
  | .t16TwoLow => [⟨0, 3⟩, ⟨3, 3⟩]
  | .t16ThreeLow => [⟨0, 3⟩, ⟨3, 3⟩, ⟨6, 3⟩]
  | .t16TwoLowImm3 => [⟨0, 3⟩, ⟨3, 3⟩, ⟨6, 3⟩]
  | .t16OneAny => [⟨3, 4⟩]
  | .t16TwoAny => [⟨7, 1⟩, ⟨0, 3⟩, ⟨3, 4⟩]
  | .t32NoOperand => []
  | .t32OneRegImm12 => [⟨8, 4⟩, ⟨26, 1⟩, ⟨12, 3⟩, ⟨0, 8⟩]
  | .t32TwoRegImm12 => [⟨8, 4⟩, ⟨16, 4⟩, ⟨26, 1⟩, ⟨12, 3⟩, ⟨0, 8⟩]
  | .t32TwoRegImm12Sf => [⟨8, 4⟩, ⟨16, 4⟩, ⟨26, 1⟩, ⟨12, 3⟩, ⟨0, 8⟩, ⟨20, 1⟩]
  | .t32TwoRegImm5Sf => [⟨8, 4⟩, ⟨0, 4⟩, ⟨12, 3⟩, ⟨6, 2⟩, ⟨20, 1⟩]
  | .t32TwoRegImm5Shift => [⟨8, 4⟩, ⟨0, 4⟩, ⟨12, 3⟩, ⟨6, 2⟩, ⟨4, 2⟩]
  | .t32TwoRegImm5ShiftSf => [⟨8, 4⟩, ⟨0, 4⟩, ⟨12, 3⟩, ⟨6, 2⟩, ⟨4, 2⟩, ⟨20, 1⟩]
  | .t32ThreeReg => [⟨8, 4⟩, ⟨16, 4⟩, ⟨0, 4⟩]
  | .t32ThreeRegSf => [⟨8, 4⟩, ⟨16, 4⟩, ⟨0, 4⟩, ⟨20, 1⟩]
  | .t32ThreeRegImm5ShiftSf => [⟨8, 4⟩, ⟨16, 4⟩, ⟨0, 4⟩, ⟨12, 3⟩, ⟨6, 2⟩, ⟨4, 2⟩, ⟨20, 1⟩]
  | .t32Branch => [⟨26, 1⟩, ⟨16, 10⟩, ⟨13, 1⟩, ⟨11, 1⟩, ⟨0, 11⟩]
  | .t32CondBranch => [⟨26, 1⟩, ⟨16, 10⟩, ⟨13, 1⟩, ⟨11, 1⟩, ⟨0, 11⟩]

/-- The OR of a list of words. -/
def orAll : List Word32 → Word32
  | [] => 0
  | w :: ws => w ||| orAll ws

/-- The bits the format's fields cover, from the field table. -/
def formatMask (f : Format) : Word32 := orAll ((formatSlots f).map slotMask)

/-- The packing law (R62): the base OR each value masked into its field. -/
def packFields (f : Format) (base : Word32) (values : List Word32) : Word32 :=
  base ||| orAll (List.zipWith putSlot (formatSlots f) values)

/-- The number of halfwords of the format's words (R61). -/
def formatHalves : Format → Nat
  | .t16NoOperand | .t16Imm7 | .t16Imm8 | .t16Imm11 | .t16RegImm8 | .t16RegImm5 | .t16TwoLow | .t16ThreeLow
  | .t16TwoLowImm3 | .t16OneAny | .t16TwoAny => 1
  | .t32NoOperand | .t32OneRegImm12 | .t32TwoRegImm12 | .t32TwoRegImm12Sf | .t32TwoRegImm5Sf | .t32TwoRegImm5Shift
  | .t32TwoRegImm5ShiftSf | .t32ThreeReg | .t32ThreeRegSf | .t32ThreeRegImm5ShiftSf | .t32Branch | .t32CondBranch => 2

/-! ### Decoding -/

/-- A one at bit `n` where `b`, else nothing. -/
def oneAt (b : Bool) (n : Nat) : Word32 := if b then (1 : Word32) <<< n else 0

/-- The displacement bits that carry a field or the implicit zero: S, I1, I2, 21:12, 11:1 and bit 0 (R141, R144). -/
def dispFieldMask (cfg : Config) : Word32 :=
  oneAt true cfg.dispSBit.val ||| oneAt true cfg.dispI1Bit.val ||| oneAt true cfg.dispI2Bit.val ||| 0x003FFFFF

/-- The displacement with the given fields (R144): S, I1, I2 at the configured bits, imm10 at 21:12, imm11 at 11:1, bit 0
zero, "every other bit is S". Where configured bits coincide with one another or with a fixed field, the values are ORed
(DESIGN CHOICE, log 17). -/
def reassemble (cfg : Config) (s i1 i2 : Bool) (imm10 imm11 : Word32) : Disp :=
  oneAt s cfg.dispSBit.val ||| oneAt i1 cfg.dispI1Bit.val ||| oneAt i2 cfg.dispI2Bit.val ||| imm10 <<< 12 |||
    imm11 <<< 1 ||| (if s then ~~~dispFieldMask cfg else 0)

/-- `decode_branch(w)` (R144): I = S where J is 1, NOT S where J is 0. -/
def decodeBranch (cfg : Config) (w : Word32) : Disp :=
  let s := w.getLsbD 26
  reassemble cfg s (if w.getLsbD 13 then s else !s) (if w.getLsbD 11 then s else !s) (getSlot 16 10 w) (getSlot 0 11 w)

/-- `decode_cond(w)` (R144): I = J. -/
def decodeCond (cfg : Config) (w : Word32) : Disp :=
  reassemble cfg (w.getLsbD 26) (w.getLsbD 13) (w.getLsbD 11) (getSlot 16 10 w) (getSlot 0 11 w)

/-- `imm12 = (i << 11) | (imm3 << 8) | imm8` (R67). -/
def readImm12 (w : Word32) : Imm := getSlot 26 1 w <<< 11 ||| getSlot 12 3 w <<< 8 ||| getSlot 0 8 w

/-- `imm5 = (imm3 << 2) | imm2` (R68). -/
def readImm5 (w : Word32) : Imm := getSlot 12 3 w <<< 2 ||| getSlot 6 2 w

/-- The shift type of bits 5:4; code 11 is RRX where imm5 is zero and ROR elsewhere (R69). -/
def readShift (w : Word32) : ShiftType :=
  match (w.getLsbD 5, w.getLsbD 4) with
  | (false, false) => .lsl
  | (false, true) => .lsr
  | (true, false) => .asr
  | (true, true) => if readImm5 w = 0 then .rrx else .ror

/-- The register number in a field. -/
def readReg (lo width : Nat) (w : Word32) : Reg := (getSlot lo width w).setWidth 4

/-- The packer row's command with the fields of `w`, which has the format `f`; the base is `w` with the fields cleared. -/
def readFields (cfg : Config) (f : Format) (w : Word32) : Instr :=
  let base := w &&& ~~~f.operandMask
  let base16 : Half := base.setWidth 16
  match f with
  | .t16NoOperand => .t16NoOperand base16
  | .t16Imm7 => .t16Imm7 base16 (getSlot 0 7 w)
  | .t16Imm8 => .t16Imm8 base16 (getSlot 0 8 w)
  | .t16Imm11 => .t16Imm11 base16 (getSlot 0 11 w)
  | .t16RegImm8 => .t16RegImm8 base16 (readReg 8 3 w) (getSlot 0 8 w)
  | .t16RegImm5 => .t16RegImm5 base16 (readReg 0 3 w) (readReg 3 3 w) (getSlot 6 5 w)
  | .t16TwoLow => .t16TwoLow base16 (readReg 0 3 w) (readReg 3 3 w)
  | .t16ThreeLow => .t16ThreeLow base16 (readReg 0 3 w) (readReg 3 3 w) (readReg 6 3 w)
  | .t16TwoLowImm3 => .t16TwoLowImm3 base16 (readReg 0 3 w) (readReg 3 3 w) (getSlot 6 3 w)
  | .t16OneAny => .t16OneAny base16 (readReg 3 4 w)
  | .t16TwoAny => .t16TwoAny base16 (readReg 7 1 w <<< 3 ||| readReg 0 3 w) (readReg 3 4 w)
  | .t32NoOperand => .t32NoOperand base
  | .t32OneRegImm12 => .t32OneRegImm12 base (readReg 8 4 w) (readImm12 w)
  | .t32TwoRegImm12 => .t32TwoRegImm12 base (readReg 8 4 w) (readReg 16 4 w) (readImm12 w)
  | .t32TwoRegImm12Sf => .t32TwoRegImm12Sf base (readReg 8 4 w) (readReg 16 4 w) (readImm12 w) (w.getLsbD 20)
  | .t32TwoRegImm5Sf => .t32TwoRegImm5Sf base (readReg 8 4 w) (readReg 0 4 w) (readImm5 w) (w.getLsbD 20)
  | .t32TwoRegImm5Shift => .t32TwoRegImm5Shift base (readReg 8 4 w) (readReg 0 4 w) (readImm5 w) (readShift w)
  | .t32TwoRegImm5ShiftSf =>
    .t32TwoRegImm5ShiftSf base (readReg 8 4 w) (readReg 0 4 w) (readImm5 w) (readShift w) (w.getLsbD 20)
  | .t32ThreeReg => .t32ThreeReg base (readReg 8 4 w) (readReg 16 4 w) (readReg 0 4 w)
  | .t32ThreeRegSf => .t32ThreeRegSf base (readReg 8 4 w) (readReg 16 4 w) (readReg 0 4 w) (w.getLsbD 20)
  | .t32ThreeRegImm5ShiftSf =>
    .t32ThreeRegImm5ShiftSf base (readReg 8 4 w) (readReg 16 4 w) (readReg 0 4 w) (readImm5 w) (readShift w)
      (w.getLsbD 20)
  | .t32Branch => .t32Branch base (decodeBranch cfg w)
  | .t32CondBranch => .t32CondBranch base (decodeCond cfg w)

/-- The command of a known format tag that the words stand for; the words must have the format's length (R61). -/
def decodeAs (cfg : Config) (f : Format) (words : List Half) : Except DecodeError Instr :=
  match formatHalves f, words with
  | 1, [h] => .ok (readFields cfg f (h.setWidth 32))
  | 2, [hi, lo] => .ok (readFields cfg f (joinHalves hi lo))
  | _, _ => .error .wrongLength

/-- A halfword without a format tag: the mnemonic row of R84 whose match and mask it meets, else `T16.no_operand`. -/
def decodeHalf (h : Half) : Instr :=
  if h &&& 0xF800 = 0x2000 then .movImm (readReg 8 3 (h.setWidth 32)) (getSlot 0 8 (h.setWidth 32))
  else if h &&& 0xFE00 = 0x1800 then
    .addThreeLow (readReg 0 3 (h.setWidth 32)) (readReg 3 3 (h.setWidth 32)) (readReg 6 3 (h.setWidth 32))
  else .t16NoOperand h

/-- The words of one opcode without a format tag. One halfword or two decides the length (R61). -/
def decodeWords : List Half → Except DecodeError Instr
  | [] => .error .empty
  | [h] => .ok (decodeHalf h)
  | [hi, lo] => .ok (.t32NoOperand (joinHalves hi lo))
  | _ :: _ :: _ :: _ => .error .tooLong

/-- The command that produces the words stored, low byte first, in these bytes. -/
def decode (bytes : List Byte) : Except DecodeError Instr :=
  match halvesOfBytes bytes with
  | .ok words => decodeWords words
  | .error e => .error e

/-- The halfwords of a table word: a row of up to 16 bits is one halfword; a row of up to 32 bits is one 32-bit word whose
bits 31:16 are the first halfword (R5, R40; log 10). -/
def tableHalves (nbits w : Nat) : Option (List Half) :=
  if w < 2 ^ nbits then
    if nbits ≤ 16 then some [BitVec.ofNat 16 w]
    else if nbits ≤ 32 then some [hi16 (BitVec.ofNat 32 w), lo16 (BitVec.ofNat 32 w)]
    else none
  else none

/-- The instruction the decoder reads from a word numbered as spec/opcode_table.json numbers it. -/
def decodeTableWord (nbits w : Nat) : Option Instr :=
  match tableHalves nbits w with
  | some words =>
    match decode (serialise .little words) with
    | .ok i => some i
    | .error _ => none
  | none => none

/-! ### Encoding -/

/-- The shift code of the table in R69; NONE "contributes no shift-type bits". -/
def shiftTableCode : ShiftType → Word32
  | .lsl => 0
  | .lsr => 1
  | .asr => 2
  | .ror => 3
  | .rrx => 3
  | .none => 0

/-- A bit as a field value. -/
def bitValue (b : Bool) : Word32 := if b then 1 else 0

/-- imm12 as the values of its fields i, imm3, imm8 (R67). -/
def imm12Values (v : Imm) : List Word32 := [v >>> 11, v >>> 8, v]

/-- imm5 as the values of its fields imm3, imm2 (R68). -/
def imm5Values (v : Imm) : List Word32 := [v >>> 2, v]

/-- The values of the fields S, imm10, J1, J2, imm11 (R71); `j` gives a J bit from S and its I bit. -/
def dispValues (cfg : Config) (j : Bool → Bool → Bool) (d : Disp) : List Word32 :=
  let s := d.getLsbD cfg.dispSBit.val
  [bitValue s, d >>> 12, bitValue (j s (d.getLsbD cfg.dispI1Bit.val)), bitValue (j s (d.getLsbD cfg.dispI2Bit.val)),
    d >>> 1]

/-- A packer command's format, base and field values in the order of `formatSlots`; none for a width no format has. -/
def fieldValues (cfg : Config) : Packer → Option (Format × Word32 × List Word32)
  | .t16NoOperand base => some (.t16NoOperand, base.setWidth 32, [])
  | .t16Imm base 7 imm => some (.t16Imm7, base.setWidth 32, [imm])
  | .t16Imm base 8 imm => some (.t16Imm8, base.setWidth 32, [imm])
  | .t16Imm base 11 imm => some (.t16Imm11, base.setWidth 32, [imm])
  | .t16Imm _ _ _ => none
  | .t16RegImm8 base rd imm8 => some (.t16RegImm8, base.setWidth 32, [rd.setWidth 32, imm8])
  | .t16RegImm5 base rd rm imm5 => some (.t16RegImm5, base.setWidth 32, [rd.setWidth 32, rm.setWidth 32, imm5])
  | .t16TwoLow base rd rm => some (.t16TwoLow, base.setWidth 32, [rd.setWidth 32, rm.setWidth 32])
  | .t16ThreeLow base rd rn rm =>
    some (.t16ThreeLow, base.setWidth 32, [rd.setWidth 32, rn.setWidth 32, rm.setWidth 32])
  | .t16TwoLowImm3 base rd rm imm3 => some (.t16TwoLowImm3, base.setWidth 32, [rd.setWidth 32, rm.setWidth 32, imm3])
  | .t16OneAny base rm => some (.t16OneAny, base.setWidth 32, [rm.setWidth 32])
  | .t16TwoAny base r1 r2 =>
    some (.t16TwoAny, base.setWidth 32, [r1.setWidth 32 >>> 3, r1.setWidth 32, r2.setWidth 32])
  | .t32NoOperand base => some (.t32NoOperand, base, [])
  | .t32OneRegImm12 base rd imm12 => some (.t32OneRegImm12, base, rd.setWidth 32 :: imm12Values imm12)
  | .t32TwoRegImm12 base rd rn imm12 =>
    some (.t32TwoRegImm12, base, rd.setWidth 32 :: rn.setWidth 32 :: imm12Values imm12)
  | .t32TwoRegImm12Sf base rd rn imm12 sf =>
    some (.t32TwoRegImm12Sf, base, rd.setWidth 32 :: rn.setWidth 32 :: (imm12Values imm12 ++ [bitValue sf]))
  | .t32TwoRegImm5Sf base rd rn imm5 sf =>
    some (.t32TwoRegImm5Sf, base, rd.setWidth 32 :: rn.setWidth 32 :: (imm5Values imm5 ++ [bitValue sf]))
  | .t32TwoRegImm5Shift base rd rn imm5 shift =>
    some (.t32TwoRegImm5Shift, base, rd.setWidth 32 :: rn.setWidth 32 :: (imm5Values imm5 ++ [shiftTableCode shift]))
  | .t32TwoRegImm5ShiftSf base rd rn imm5 shift sf =>
    some (.t32TwoRegImm5ShiftSf, base,
      rd.setWidth 32 :: rn.setWidth 32 :: (imm5Values imm5 ++ [shiftTableCode shift, bitValue sf]))
  | .t32ThreeReg base rd rn rm => some (.t32ThreeReg, base, [rd.setWidth 32, rn.setWidth 32, rm.setWidth 32])
  | .t32ThreeRegSf base rd rn rm sf =>
    some (.t32ThreeRegSf, base, [rd.setWidth 32, rn.setWidth 32, rm.setWidth 32, bitValue sf])
  | .t32ThreeRegImm5ShiftSf base rd rn rm imm5 shift sf =>
    some (.t32ThreeRegImm5ShiftSf, base, rd.setWidth 32 :: rn.setWidth 32 :: rm.setWidth 32 ::
      (imm5Values imm5 ++ [shiftTableCode shift, bitValue sf]))
  | .t32Branch base d => some (.t32Branch, base, dispValues cfg (fun s i => s == i) d)
  | .t32CondBranch base d => some (.t32CondBranch, base, dispValues cfg (fun _ i => i) d)

/-- The halfwords of a word of a format, the high one first (R40, R72). -/
def formatWords (f : Format) (w : Word32) : List Half :=
  if formatHalves f = 1 then [lo16 w] else [hi16 w, lo16 w]

/-- The words of a packer command from the field tables; none for a width no format has. -/
def encodePacker (cfg : Config) (p : Packer) : Option (List Half) :=
  (fieldValues cfg p).map fun (f, base, values) => formatWords f (packFields f base values)

/-- The words of an instruction: those its packer command produces. A buffer command has none of its own (R172). -/
def encode (cfg : Config) (i : Instr) : Option (List Half) := i.asPacker.bind (encodePacker cfg)

/-- The format tag of a packer row's command; none for `t16ImmOther` (no format has its width), for the buffer commands
and for the two mnemonic rows, which `decode` knows by their fixed bits. -/
def formatOf : Instr → Option Format
  | .t16NoOperand .. => some .t16NoOperand
  | .t16Imm7 .. => some .t16Imm7
  | .t16Imm8 .. => some .t16Imm8
  | .t16Imm11 .. => some .t16Imm11
  | .t16ImmOther .. => none
  | .t16RegImm8 .. => some .t16RegImm8
  | .t16RegImm5 .. => some .t16RegImm5
  | .t16TwoLow .. => some .t16TwoLow
  | .t16ThreeLow .. => some .t16ThreeLow
  | .t16TwoLowImm3 .. => some .t16TwoLowImm3
  | .t16OneAny .. => some .t16OneAny
  | .t16TwoAny .. => some .t16TwoAny
  | .t32NoOperand .. => some .t32NoOperand
  | .t32OneRegImm12 .. => some .t32OneRegImm12
  | .t32TwoRegImm12 .. => some .t32TwoRegImm12
  | .t32TwoRegImm12Sf .. => some .t32TwoRegImm12Sf
  | .t32TwoRegImm5Sf .. => some .t32TwoRegImm5Sf
  | .t32TwoRegImm5Shift .. => some .t32TwoRegImm5Shift
  | .t32TwoRegImm5ShiftSf .. => some .t32TwoRegImm5ShiftSf
  | .t32ThreeReg .. => some .t32ThreeReg
  | .t32ThreeRegSf .. => some .t32ThreeRegSf
  | .t32ThreeRegImm5ShiftSf .. => some .t32ThreeRegImm5ShiftSf
  | .t32Branch .. => some .t32Branch
  | .t32CondBranch .. => some .t32CondBranch
  | .create _ => none
  | .append _ => none
  | .drain => none
  | .emit _ => none
  | .movImm .. => none
  | .addThreeLow .. => none

end Sys2Proof
end

