-- ==== Sys2Proof/Machine/State.lean ====
section
/-! DEFINITION. The state of the block (10_state.md), its outputs, and the reasons a step can stop. Plain data. -/

namespace Sys2Proof.Machine

/-- The buffer's cells that hold a value, as (index, halfword) pairs with strictly rising indices (R8, R21). The spec's
cell is a halfword and has no bytes (R41; log 2). A cell that is not listed holds NO value (R21, R27; log 3). -/
abbrev Memory := List (Nat × Half)

/-- The instruction sequence (R21 to R23). -/
structure Sequence where
  /-- `mem` (R21). -/
  mem : Memory
  /-- `cursor`: the next free index, and the count of halfwords written (R22). -/
  cursor : Nat
  /-- `capacity`: CREATE's operand (R23). -/
  capacity : Nat
  deriving DecidableEq, Repr

/-- What a command returns to the host (R60, column "result"). -/
inductive Result
  /-- No command was performed. -/
  | nothing
  /-- A packer's result (R93). -/
  | opcode (o : Opcode)
  /-- CREATE's "a new sequence" (R150). -/
  | created
  /-- APPEND's truth value (R152). -/
  | appended (ok : Bool)
  /-- DRAIN's list of halfwords (R155). -/
  | drained (words : List Half)
  /-- EMIT's pair (R156). -/
  | emitted (o : Opcode) (ok : Bool)
  deriving DecidableEq, Repr

/-- What the block drives to the host in one step. -/
structure Response where
  result : Result
  /-- The sideband `warn_shift_pair` (R130, R173; log 16). -/
  warnShiftPair : Bool
  deriving DecidableEq, Repr

/-- The machine. `seq` is the block's whole state (R21 to R30); the other fields are what a step reads from outside and
shows outside (logs 4, 5, 6). -/
structure State where
  /-- The instruction sequence; none before the first CREATE (R28; log 1). -/
  seq : Option Sequence
  /-- The parameters of R4; no command writes them (log 6). -/
  cfg : Config
  /-- The host's commands that are still to be performed, oldest first (R10, R46; log 4). -/
  port : List Instr
  /-- The outputs of the last step; no command reads them (R25; log 5). -/
  out : Response
  deriving DecidableEq, Repr

/-- Why the machine stops with a fault. No state that keeps R24 reaches one. -/
inductive Fault
  /-- Raised by DRAIN where a cell below the cursor holds no value (R21, U4). Safe: the model stops. -/
  | valuelessCell (index : Nat)
  /-- Raised by an access to cells at or above the capacity, which do not exist (R8, R45). Safe: the model stops. -/
  | outsideBuffer
  deriving DecidableEq, Repr

/-- Why an instruction is refused. -/
inductive Refusal
  /-- Raised by `exec` for an instruction without a meaning; no arm raises it now. Safe: the model stops. -/
  | notModelled (mnemonic : String)
  /-- Raised by APPEND, DRAIN and EMIT before the first CREATE: such a command "cannot be issued" (R28, U16; log 13).
  Safe: the model stops. -/
  | noSequence
  deriving DecidableEq, Repr

/-- The block before its first CREATE (R28, R190: the spec describes no power-on state and no reset but CREATE, and
every program of 95_test_vectors.md starts here; log 1), with the document's parameters (R4; log 6), no command issued
and nothing driven. -/
def State.reset : State where
  seq := none
  cfg := Config.document
  port := []
  out := ⟨.nothing, false⟩

end Sys2Proof.Machine
end

