-- ==== Sys2Proof/Machine/Operands.lean ====
section
/-! DEFINITION. The helper functions of the packers: register and shift helpers (40_register_shift_result.md), the splits
of immediates and displacements (30_encoding.md, 43_branch_displacement.md). All pure (R26). -/

namespace Sys2Proof.Machine

/-- `is_low(r)` (R90). -/
def isLow (r : Reg) : Bool := r.toNat ≤ 7

/-- `shift_code(s)` (R91); NONE has no code. -/
def shiftCode : ShiftType → Option (BitVec 2)
  | .lsl => some 0b00
  | .lsr => some 0b01
  | .asr => some 0b10
  | .ror => some 0b11
  | .rrx => some 0b11
  | .none => none

/-- `ambiguous_pair(s, imm5)` (R92): only imm5[4:0] counts. -/
def ambiguousPair : ShiftType → Imm → Bool
  | .ror, imm5 => imm5 &&& 0x1F == 0
  | .rrx, imm5 => imm5 &&& 0x1F != 0
  | .lsl, _ | .lsr, _ | .asr, _ | .none, _ => false

/-- `shift_bits(shift, imm5)` (R130), its two policies and the order of its causes (R174). -/
def shiftBits (cfg : Config) (shift : ShiftType) (imm5 : Imm) : Except ErrorKind (BitVec 2) :=
  match shiftCode shift with
  | none =>
    match cfg.noneShiftPolicy with
    | .encodeError => .error .encodeError
    | .zeroBits => .ok 0b00
  | some code =>
    if ambiguousPair shift imm5 then
      match cfg.shiftPairPolicy with
      | .reject => .error .encodeError
      | .preserve => .ok code
    else .ok code

/-- A register number as a 16-bit field value. -/
def reg16 (r : Reg) : Half := r.setWidth 16

/-- A register number as a 32-bit field value. -/
def reg32 (r : Reg) : Word32 := r.setWidth 32

/-- `imm & (2^width - 1)` in a 16-bit word (R66); for widths up to 16. -/
def immField16 (width : Nat) (imm : Imm) : Half := (imm &&& BitVec.ofNat 32 (2 ^ width - 1)).setWidth 16

/-- `split12(v)` (R67): `(v[11] << 26) | (v[10:8] << 12) | v[7:0]`. -/
def split12 (v : Imm) : Word32 := ((v >>> 11) &&& 0x1) <<< 26 ||| ((v >>> 8) &&& 0x7) <<< 12 ||| (v &&& 0xFF)

/-- `split5(v)` (R68): `(v[4:2] << 12) | (v[1:0] << 6)`. -/
def split5 (v : Imm) : Word32 := ((v >>> 2) &&& 0x7) <<< 12 ||| (v &&& 0x3) <<< 6

/-- The fields of a displacement (R141). -/
structure DispFields where
  s : Bool
  i1 : Bool
  i2 : Bool
  imm10 : BitVec 10
  imm11 : BitVec 11
  deriving DecidableEq, Repr

/-- The extraction common to both branch forms (R141): S, I1, I2 at the configured bits, imm10 = d[21:12],
imm11 = d[11:1]. -/
def dispFields (cfg : Config) (d : Disp) : DispFields where
  s := d.getLsbD cfg.dispSBit.val
  i1 := d.getLsbD cfg.dispI1Bit.val
  i2 := d.getLsbD cfg.dispI2Bit.val
  imm10 := (d >>> 12).setWidth 10
  imm11 := (d >>> 1).setWidth 11

/-- A bit at a place of a 32-bit word. -/
def bitAt (b : Bool) (n : Nat) : Word32 := if b then (1 : Word32) <<< n else 0

/-- The branch fields in place, the J bits given (R142, R143: S at 26, imm10 at 25:16, J1 at 13, J2 at 11, imm11 at
10:0). -/
def placeBranch (f : DispFields) (j1 j2 : Bool) : Word32 :=
  bitAt f.s 26 ||| (f.imm10.setWidth 32 <<< 16) ||| bitAt j1 13 ||| bitAt j2 11 ||| f.imm11.setWidth 32

/-- `split32(w)` (R95, R72): the upper half first. -/
def split32 (w : Word32) : Opcode := .thumb32 ((w >>> 16).setWidth 16) (w.setWidth 16)

/-- `words_of(o)` (R96): not defined for an error, which has no bits to read (R94). -/
def wordsOf : Opcode → Option (List Half)
  | .thumb16 w => some [w]
  | .thumb32 hi lo => some [hi, lo]
  | .error _ => none

/-- `words_needed(o)` (R151): not defined for an error. -/
def wordsNeeded : Opcode → Option Nat
  | .thumb16 _ => some 1
  | .thumb32 _ _ => some 2
  | .error _ => none

end Sys2Proof.Machine
end

