-- ==== Sys2Proof/Machine/Flags.lean ====
section
/-! DEFINITION. The block has no flags, condition codes or predicates (R25). What the spec has of the kind is an operand
bit that is copied into the word (R70) and an output that warns (R130). -/

namespace Sys2Proof.Machine

/-- `sf << 20` (R70): the status-flag bit of the produced word. -/
def sfBit (sf : Bool) : Word32 := bitAt sf 20

/-- `warn_shift_pair` (R130): `ambiguous_pair` of the command in progress, whatever the policy (log 16); 0 for a command
without a shift field. -/
def warnShiftPair : Packer → Bool
  | .t32TwoRegImm5Shift _ _ _ imm5 shift => ambiguousPair shift imm5
  | .t32TwoRegImm5ShiftSf _ _ _ imm5 shift _ => ambiguousPair shift imm5
  | .t32ThreeRegImm5ShiftSf _ _ _ _ imm5 shift _ => ambiguousPair shift imm5
  | .t16NoOperand .. | .t16Imm .. | .t16RegImm8 .. | .t16RegImm5 .. | .t16TwoLow .. | .t16ThreeLow ..
  | .t16TwoLowImm3 .. | .t16OneAny .. | .t16TwoAny .. | .t32NoOperand .. | .t32OneRegImm12 .. | .t32TwoRegImm12 ..
  | .t32TwoRegImm12Sf .. | .t32TwoRegImm5Sf .. | .t32ThreeReg .. | .t32ThreeRegSf .. | .t32Branch ..
  | .t32CondBranch .. => false

end Sys2Proof.Machine
end

