-- ==== Sys2Proof/Machine/Ops.lean ====
section
/-! DEFINITION. The named operations over the buffer and the state. There is no exception entry and no return from one:
"packers never throw/abort; they return the error variant to the immediate caller" (R175, R176), so what stands in
their place is `State.answer`, by which every command, failing or not, hands its result to the host. -/

namespace Sys2Proof.Machine

/-! ### The buffer's cells -/

/-- The canonical form: strictly rising indices. (No listed cell can equal an unlisted one, which holds no value.) -/
abbrev Memory.wf (m : Memory) : Prop := m.Pairwise fun a b => a.1 < b.1

/-- The value of a cell, if it holds one (R21). -/
def Memory.read : Memory → Nat → Option Half
  | [], _ => none
  | (a, v) :: m, k => if a = k then some v else Memory.read m k

/-- `mem[k] <- v`, in place in the rising order. -/
def Memory.write : Memory → Nat → Half → Memory
  | [], k, v => [(k, v)]
  | (a, x) :: m, k, v =>
    if k < a then (k, v) :: (a, x) :: m
    else if k = a then (k, v) :: m
    else (a, x) :: Memory.write m k v

/-- `mem[k+j] <- vs[j]` for every j (R8). -/
def Memory.writeAll (m : Memory) (k : Nat) : List Half → Memory
  | [] => m
  | v :: vs => Memory.writeAll (m.write k v) (k + 1) vs

/-- The values of the `n` cells from `k` (R8); a cell without a value stops the read. -/
def Memory.readAll (m : Memory) (k : Nat) : Nat → Except Fault (List Half)
  | 0 => .ok []
  | n + 1 =>
    match m.read k with
    | none => .error (.valuelessCell k)
    | some v =>
      match Memory.readAll m (k + 1) n with
      | .ok vs => .ok (v :: vs)
      | .error e => .error e

/-- `MemRead(k, n)` (R8): the cells must exist and hold values. -/
def Sequence.memRead (q : Sequence) (k n : Nat) : Except Fault (List Half) :=
  if k + n ≤ q.capacity then q.mem.readAll k n else .error .outsideBuffer

/-- `MemWrite(k, n, vs)` (R8), n the length of `vs`: the cells must exist. -/
def Sequence.memWrite (q : Sequence) (k : Nat) (vs : List Half) : Except Fault Sequence :=
  if k + vs.length ≤ q.capacity then .ok { q with mem := q.mem.writeAll k vs } else .error .outsideBuffer

/-! ### The buffer commands on a sequence -/

/-- The sequence after CREATE (R27, R150): nothing carries over, no cell holds a value. -/
def Sequence.create (capacity : Nat) : Sequence where
  mem := []
  cursor := 0
  capacity := capacity

/-- `words` written at the cursor and the cursor advanced by their count, in one step (R154); false and the sequence as it
was where there is no room. The test adds, over the naturals (R153). -/
def Sequence.appendWords (q : Sequence) (words : List Half) : Except Fault (Sequence × Bool) :=
  if q.cursor + words.length ≤ q.capacity then
    match q.memWrite q.cursor words with
    | .ok q' => .ok ({ q' with cursor := q.cursor + words.length }, true)
    | .error e => .error e
  else .ok (q, false)

/-- `APPEND(seq, opcode)` (R152): all the halfwords of the opcode or none; an error opcode is refused. -/
def Sequence.append (q : Sequence) (o : Opcode) : Except Fault (Sequence × Bool) :=
  match wordsOf o with
  | none => .ok (q, false)
  | some words => q.appendWords words

/-- `DRAIN(seq)` (R155): `MemRead(0, cursor)`. -/
def Sequence.drain (q : Sequence) : Except Fault (List Half) := q.memRead 0 q.cursor

/-! ### The state -/

/-- The step's outputs: the result and the sideband (R25, R130). Nothing else changes. -/
def State.answer (s : State) (result : Result) (warn : Bool) : State := { s with out := ⟨result, warn⟩ }

/-- The sequence replaced. -/
def State.setSeq (s : State) (q : Sequence) : State := { s with seq := some q }

/-- A packer command: it reads and writes no state and hands its `Opcode` to the host (R26). -/
def returnOpcode (o : Opcode) (warn : Bool) (s : State) : Host.Outcome State Fault Refusal :=
  .next (s.answer (.opcode o) warn)

/-- A command on the sequence; before the first CREATE there is none to name (R28, U16; log 13). -/
def onSequence (f : Sequence → Host.Outcome State Fault Refusal) (s : State) : Host.Outcome State Fault Refusal :=
  match s.seq with
  | none => .refused .noSequence
  | some q => f q

/-- APPEND on the state's sequence, its result reported by `report` (R152, R156). -/
def appendAndReport (o : Opcode) (report : Bool → Result) (warn : Bool) (s : State) :
    Host.Outcome State Fault Refusal :=
  onSequence
    (fun q =>
      match q.append o with
      | .ok (q', ok) => .next ((s.setSeq q').answer (report ok) warn)
      | .error e => .fault e)
    s

/-! ### The command port -/

/-- The command the block performs next and the state without it; none where the host has issued none (R10, R46). -/
def fetch (s : State) : Option (Instr × State) :=
  match s.port with
  | [] => none
  | i :: rest => some (i, { s with port := rest })

/-- A step without a command: "Nothing happens in the block except in response to a command" (R173), and no result is
driven (R25; log 5). -/
def idle (s : State) : State := s.answer .nothing false

/-- A command issued at the front of the port. -/
def issueFirst (i : Instr) (s : State) : State := { s with port := i :: s.port }

/-! ### Addresses outside the block -/

/-- The target byte address of cell `k`, where `IMAGE_BASE` is fixed (R45). No rule of the block reads it. -/
def targetAddress (cfg : Config) (k : Nat) : Option Nat := cfg.imageBase.map (· + 2 * k)

end Sys2Proof.Machine
end

