-- ==== Sys2Proof/Machine/Branch.lean ====
section
/-! DEFINITION. The two displacement packers (43_branch_displacement.md). Their J bits differ and "must not be unified into
one function" (R146, R198). Neither checks range or parity (R147). -/

namespace Sys2Proof.Machine

/-- R142, the unconditional and call form: a J bit is 1 where S equals its I bit. -/
def packT32Branch (cfg : Config) (base : Word32) (d : Disp) : Opcode :=
  let f := dispFields cfg d
  split32 (base ||| placeBranch f (f.s == f.i1) (f.s == f.i2))

/-- R143, the conditional form: a J bit is its I bit, not combined with S. -/
def packT32CondBranch (cfg : Config) (base : Word32) (d : Disp) : Opcode :=
  let f := dispFields cfg d
  split32 (base ||| placeBranch f f.i1 f.i2)

/-- `T32.branch` (R142). -/
def execT32Branch (base : Word32) (d : Disp) (s : State) : Host.Outcome State Fault Refusal :=
  returnOpcode (packT32Branch s.cfg base d) false s

/-- `T32.cond_branch` (R143). -/
def execT32CondBranch (base : Word32) (d : Disp) (s : State) : Host.Outcome State Fault Refusal :=
  returnOpcode (packT32CondBranch s.cfg base d) false s

end Sys2Proof.Machine
end

