-- ==== Sys2Proof/Machine/T16.lean ====
section
/-! DEFINITION. The nine 16-bit packers (41_thumb16_packers.md): the packing functions and the meanings of their rows. The
register check comes first (R109, R174); the base is not checked (R62). -/

namespace Sys2Proof.Machine

/-- R100. -/
def packT16NoOperand (base : Half) : Opcode := .thumb16 base

/-- R101: widths 7, 8 and 11; every other width is `EncodeError`. -/
def packT16Imm (base : Half) (width : Nat) (imm : Imm) : Opcode :=
  if width = 7 ∨ width = 8 ∨ width = 11 then .thumb16 (base ||| immField16 width imm) else .error .encodeError

/-- R102: rd at [10:8], imm8 at [7:0]. -/
def packT16RegImm8 (base : Half) (rd : Reg) (imm8 : Imm) : Opcode :=
  if isLow rd then .thumb16 (base ||| reg16 rd <<< 8 ||| immField16 8 imm8) else .error .registerOutOfRange

/-- R103: rd at [2:0], rm at [5:3], imm5 at [10:6]. -/
def packT16RegImm5 (base : Half) (rd rm : Reg) (imm5 : Imm) : Opcode :=
  if isLow rd && isLow rm then .thumb16 (base ||| reg16 rd ||| reg16 rm <<< 3 ||| immField16 5 imm5 <<< 6)
  else .error .registerOutOfRange

/-- R104: rd at [2:0], rm at [5:3]. -/
def packT16TwoLow (base : Half) (rd rm : Reg) : Opcode :=
  if isLow rd && isLow rm then .thumb16 (base ||| reg16 rd ||| reg16 rm <<< 3) else .error .registerOutOfRange

/-- R105: rd at [2:0], rn at [5:3], rm at [8:6]. -/
def packT16ThreeLow (base : Half) (rd rn rm : Reg) : Opcode :=
  if isLow rd && isLow rn && isLow rm then .thumb16 (base ||| reg16 rd ||| reg16 rn <<< 3 ||| reg16 rm <<< 6)
  else .error .registerOutOfRange

/-- R106: rd at [2:0], rm at [5:3], imm3 at [8:6]. -/
def packT16TwoLowImm3 (base : Half) (rd rm : Reg) (imm3 : Imm) : Opcode :=
  if isLow rd && isLow rm then .thumb16 (base ||| reg16 rd ||| reg16 rm <<< 3 ||| immField16 3 imm3 <<< 6)
  else .error .registerOutOfRange

/-- R107: rm at [6:3], any register. -/
def packT16OneAny (base : Half) (rm : Reg) : Opcode := .thumb16 (base ||| reg16 rm <<< 3)

/-- R108: r1[2:0] at [2:0], r1[3] at bit 7, r2 at [6:3], any registers. -/
def packT16TwoAny (base : Half) (r1 r2 : Reg) : Opcode :=
  .thumb16 (base ||| (reg16 r1 &&& 0x7) ||| (reg16 r1 >>> 3) <<< 7 ||| reg16 r2 <<< 3)

/-- `T16.no_operand` (R100). -/
def execT16NoOperand (base : Half) (s : State) : Host.Outcome State Fault Refusal :=
  returnOpcode (packT16NoOperand base) false s

/-- `T16.imm` of width 7 (R101). -/
def execT16Imm7 (base : Half) (imm : Imm) (s : State) : Host.Outcome State Fault Refusal :=
  returnOpcode (packT16Imm base 7 imm) false s

/-- `T16.imm` of width 8 (R101). -/
def execT16Imm8 (base : Half) (imm : Imm) (s : State) : Host.Outcome State Fault Refusal :=
  returnOpcode (packT16Imm base 8 imm) false s

/-- `T16.imm` of width 11 (R101). -/
def execT16Imm11 (base : Half) (imm : Imm) (s : State) : Host.Outcome State Fault Refusal :=
  returnOpcode (packT16Imm base 11 imm) false s

/-- `T16.imm` with the width as an operand (R101; log 8). -/
def execT16ImmOther (base : Half) (width : Nat) (imm : Imm) (s : State) : Host.Outcome State Fault Refusal :=
  returnOpcode (packT16Imm base width imm) false s

/-- `T16.reg_imm8` (R102). -/
def execT16RegImm8 (base : Half) (rd : Reg) (imm8 : Imm) (s : State) : Host.Outcome State Fault Refusal :=
  returnOpcode (packT16RegImm8 base rd imm8) false s

/-- `T16.reg_imm5` (R103). -/
def execT16RegImm5 (base : Half) (rd rm : Reg) (imm5 : Imm) (s : State) : Host.Outcome State Fault Refusal :=
  returnOpcode (packT16RegImm5 base rd rm imm5) false s

/-- `T16.two_low` (R104). -/
def execT16TwoLow (base : Half) (rd rm : Reg) (s : State) : Host.Outcome State Fault Refusal :=
  returnOpcode (packT16TwoLow base rd rm) false s

/-- `T16.three_low` (R105). -/
def execT16ThreeLow (base : Half) (rd rn rm : Reg) (s : State) : Host.Outcome State Fault Refusal :=
  returnOpcode (packT16ThreeLow base rd rn rm) false s

/-- `T16.two_low_imm3` (R106). -/
def execT16TwoLowImm3 (base : Half) (rd rm : Reg) (imm3 : Imm) (s : State) : Host.Outcome State Fault Refusal :=
  returnOpcode (packT16TwoLowImm3 base rd rm imm3) false s

/-- `T16.one_any` (R107). -/
def execT16OneAny (base : Half) (rm : Reg) (s : State) : Host.Outcome State Fault Refusal :=
  returnOpcode (packT16OneAny base rm) false s

/-- `T16.two_any` (R108). -/
def execT16TwoAny (base : Half) (r1 r2 : Reg) (s : State) : Host.Outcome State Fault Refusal :=
  returnOpcode (packT16TwoAny base r1 r2) false s

end Sys2Proof.Machine
end

