-- ==== Sys2Proof/Machine/T32.lean ====
section
/-! DEFINITION. The ten 32-bit field packers (42_thumb32_packers.md): the packing functions and the meanings of their
rows. No register is range-checked (R131); the base is not checked (R62). -/

namespace Sys2Proof.Machine

/-- R120. -/
def packT32NoOperand (base : Word32) : Opcode := split32 base

/-- R121: rd at [11:8], imm12 split. -/
def packT32OneRegImm12 (base : Word32) (rd : Reg) (imm12 : Imm) : Opcode :=
  split32 (base ||| reg32 rd <<< 8 ||| split12 imm12)

/-- R122: R121 and rn at [19:16]. -/
def packT32TwoRegImm12 (base : Word32) (rd rn : Reg) (imm12 : Imm) : Opcode :=
  split32 (base ||| reg32 rd <<< 8 ||| reg32 rn <<< 16 ||| split12 imm12)

/-- R123: R122 and sf at bit 20. -/
def packT32TwoRegImm12Sf (base : Word32) (rd rn : Reg) (imm12 : Imm) (sf : Bool) : Opcode :=
  split32 (base ||| reg32 rd <<< 8 ||| reg32 rn <<< 16 ||| split12 imm12 ||| sfBit sf)

/-- R124: rd at [11:8], rn at [3:0], imm5 split, sf at bit 20; no shift field. -/
def packT32TwoRegImm5Sf (base : Word32) (rd rn : Reg) (imm5 : Imm) (sf : Bool) : Opcode :=
  split32 (base ||| reg32 rd <<< 8 ||| reg32 rn ||| split5 imm5 ||| sfBit sf)

/-- `word` with the shift code at [5:4], or the error of `shift_bits` (R130). -/
def withShift (cfg : Config) (shift : ShiftType) (imm5 : Imm) (word : Word32) : Opcode :=
  match shiftBits cfg shift imm5 with
  | .error kind => .error kind
  | .ok t => split32 (word ||| t.setWidth 32 <<< 4)

/-- R125: rd at [11:8], rn at [3:0], imm5 split, the shift code at [5:4]. -/
def packT32TwoRegImm5Shift (cfg : Config) (base : Word32) (rd rn : Reg) (imm5 : Imm) (shift : ShiftType) : Opcode :=
  withShift cfg shift imm5 (base ||| reg32 rd <<< 8 ||| reg32 rn ||| split5 imm5)

/-- R126: R125 and sf at bit 20. -/
def packT32TwoRegImm5ShiftSf (cfg : Config) (base : Word32) (rd rn : Reg) (imm5 : Imm) (shift : ShiftType)
    (sf : Bool) : Opcode :=
  withShift cfg shift imm5 (base ||| reg32 rd <<< 8 ||| reg32 rn ||| split5 imm5 ||| sfBit sf)

/-- R127: rd at [11:8], rn at [19:16], rm at [3:0]. -/
def packT32ThreeReg (base : Word32) (rd rn rm : Reg) : Opcode :=
  split32 (base ||| reg32 rd <<< 8 ||| reg32 rn <<< 16 ||| reg32 rm)

/-- R128: R127 and sf at bit 20. -/
def packT32ThreeRegSf (base : Word32) (rd rn rm : Reg) (sf : Bool) : Opcode :=
  split32 (base ||| reg32 rd <<< 8 ||| reg32 rn <<< 16 ||| reg32 rm ||| sfBit sf)

/-- R129: the registers of R127, the imm5, shift and sf fields of R126. -/
def packT32ThreeRegImm5ShiftSf (cfg : Config) (base : Word32) (rd rn rm : Reg) (imm5 : Imm) (shift : ShiftType)
    (sf : Bool) : Opcode :=
  withShift cfg shift imm5 (base ||| reg32 rd <<< 8 ||| reg32 rn <<< 16 ||| reg32 rm ||| split5 imm5 ||| sfBit sf)

/-- `T32.no_operand` (R120). -/
def execT32NoOperand (base : Word32) (s : State) : Host.Outcome State Fault Refusal :=
  returnOpcode (packT32NoOperand base) false s

/-- `T32.one_reg_imm12` (R121). -/
def execT32OneRegImm12 (base : Word32) (rd : Reg) (imm12 : Imm) (s : State) : Host.Outcome State Fault Refusal :=
  returnOpcode (packT32OneRegImm12 base rd imm12) false s

/-- `T32.two_reg_imm12` (R122). -/
def execT32TwoRegImm12 (base : Word32) (rd rn : Reg) (imm12 : Imm) (s : State) : Host.Outcome State Fault Refusal :=
  returnOpcode (packT32TwoRegImm12 base rd rn imm12) false s

/-- `T32.two_reg_imm12_sf` (R123). -/
def execT32TwoRegImm12Sf (base : Word32) (rd rn : Reg) (imm12 : Imm) (sf : Bool) (s : State) :
    Host.Outcome State Fault Refusal :=
  returnOpcode (packT32TwoRegImm12Sf base rd rn imm12 sf) false s

/-- `T32.two_reg_imm5_sf` (R124). -/
def execT32TwoRegImm5Sf (base : Word32) (rd rn : Reg) (imm5 : Imm) (sf : Bool) (s : State) :
    Host.Outcome State Fault Refusal :=
  returnOpcode (packT32TwoRegImm5Sf base rd rn imm5 sf) false s

/-- `T32.two_reg_imm5_shift` (R125), with the sideband of R130. -/
def execT32TwoRegImm5Shift (base : Word32) (rd rn : Reg) (imm5 : Imm) (shift : ShiftType) (s : State) :
    Host.Outcome State Fault Refusal :=
  returnOpcode (packT32TwoRegImm5Shift s.cfg base rd rn imm5 shift) (ambiguousPair shift imm5) s

/-- `T32.two_reg_imm5_shift_sf` (R126), with the sideband of R130. -/
def execT32TwoRegImm5ShiftSf (base : Word32) (rd rn : Reg) (imm5 : Imm) (shift : ShiftType) (sf : Bool) (s : State) :
    Host.Outcome State Fault Refusal :=
  returnOpcode (packT32TwoRegImm5ShiftSf s.cfg base rd rn imm5 shift sf) (ambiguousPair shift imm5) s

/-- `T32.three_reg` (R127). -/
def execT32ThreeReg (base : Word32) (rd rn rm : Reg) (s : State) : Host.Outcome State Fault Refusal :=
  returnOpcode (packT32ThreeReg base rd rn rm) false s

/-- `T32.three_reg_sf` (R128). -/
def execT32ThreeRegSf (base : Word32) (rd rn rm : Reg) (sf : Bool) (s : State) : Host.Outcome State Fault Refusal :=
  returnOpcode (packT32ThreeRegSf base rd rn rm sf) false s

/-- `T32.three_reg_imm5_shift_sf` (R129), with the sideband of R130. -/
def execT32ThreeRegImm5ShiftSf (base : Word32) (rd rn rm : Reg) (imm5 : Imm) (shift : ShiftType) (sf : Bool)
    (s : State) : Host.Outcome State Fault Refusal :=
  returnOpcode (packT32ThreeRegImm5ShiftSf s.cfg base rd rn rm imm5 shift sf) (ambiguousPair shift imm5) s

end Sys2Proof.Machine
end

