-- ==== Sys2Proof/Machine/Buffer.lean ====
section
/-! DEFINITION. The four buffer commands (44_sequence_buffer.md). -/

namespace Sys2Proof.Machine

/-- The result of a packer command (R60): a function of its operands and the parameters alone (R26). -/
def pack (cfg : Config) : Packer → Opcode
  | .t16NoOperand base => packT16NoOperand base
  | .t16Imm base width imm => packT16Imm base width imm
  | .t16RegImm8 base rd imm8 => packT16RegImm8 base rd imm8
  | .t16RegImm5 base rd rm imm5 => packT16RegImm5 base rd rm imm5
  | .t16TwoLow base rd rm => packT16TwoLow base rd rm
  | .t16ThreeLow base rd rn rm => packT16ThreeLow base rd rn rm
  | .t16TwoLowImm3 base rd rm imm3 => packT16TwoLowImm3 base rd rm imm3
  | .t16OneAny base rm => packT16OneAny base rm
  | .t16TwoAny base r1 r2 => packT16TwoAny base r1 r2
  | .t32NoOperand base => packT32NoOperand base
  | .t32OneRegImm12 base rd imm12 => packT32OneRegImm12 base rd imm12
  | .t32TwoRegImm12 base rd rn imm12 => packT32TwoRegImm12 base rd rn imm12
  | .t32TwoRegImm12Sf base rd rn imm12 sf => packT32TwoRegImm12Sf base rd rn imm12 sf
  | .t32TwoRegImm5Sf base rd rn imm5 sf => packT32TwoRegImm5Sf base rd rn imm5 sf
  | .t32TwoRegImm5Shift base rd rn imm5 shift => packT32TwoRegImm5Shift cfg base rd rn imm5 shift
  | .t32TwoRegImm5ShiftSf base rd rn imm5 shift sf => packT32TwoRegImm5ShiftSf cfg base rd rn imm5 shift sf
  | .t32ThreeReg base rd rn rm => packT32ThreeReg base rd rn rm
  | .t32ThreeRegSf base rd rn rm sf => packT32ThreeRegSf base rd rn rm sf
  | .t32ThreeRegImm5ShiftSf base rd rn rm imm5 shift sf => packT32ThreeRegImm5ShiftSf cfg base rd rn rm imm5 shift sf
  | .t32Branch base d => packT32Branch cfg base d
  | .t32CondBranch base d => packT32CondBranch cfg base d

/-- CREATE (R150), the block's reset (R190): whatever sequence there was is discarded (D29). -/
def execCreate (capacity : Nat) (s : State) : Host.Outcome State Fault Refusal :=
  .next ((s.setSeq (Sequence.create capacity)).answer .created false)

/-- APPEND (R152). -/
def execAppend (o : Opcode) (s : State) : Host.Outcome State Fault Refusal :=
  appendAndReport o .appended false s

/-- DRAIN (R155): the sequence stays as it is (R44). -/
def execDrain (s : State) : Host.Outcome State Fault Refusal :=
  onSequence
    (fun q =>
      match q.drain with
      | .ok words => .next (s.answer (.drained words) false)
      | .error e => .fault e)
    s

/-- EMIT (R156): the packer, then APPEND of its result, with nothing between; the sideband is the packer's (R130). -/
def execEmit (p : Packer) (s : State) : Host.Outcome State Fault Refusal :=
  appendAndReport (pack s.cfg p) (.emitted (pack s.cfg p)) (warnShiftPair p) s

end Sys2Proof.Machine
end

