-- ==== Sys2Proof/Machine/Mnemonic.lean ====
section
/-! DEFINITION. The two rows of the mnemonic table that the document gives (R84): a wrapper "binds the base and the format
and forwards the operands in the packer's order" (R85; log 12). -/

namespace Sys2Proof.Machine

/-- `mov rd,#imm8`: base `0x2000` over `T16.reg_imm8` (R84, R102). -/
def execMovImm (rd : Reg) (imm8 : Imm) (s : State) : Host.Outcome State Fault Refusal :=
  returnOpcode (packT16RegImm8 0x2000 rd imm8) false s

/-- `add rd,rn,rm`: base `0x1800` over `T16.three_low` (R84, R105; the layout overrules the literal `0x1888` of the
document's §8, 90_conflicts.md C1). -/
def execAddThreeLow (rd rn rm : Reg) (s : State) : Host.Outcome State Fault Refusal :=
  returnOpcode (packT16ThreeLow 0x1800 rd rn rm) false s

end Sys2Proof.Machine
end

