-- ==== Sys2Proof/Machine/Dispatch.lean ====
section
/-! DEFINITION. One arm per command, each one call of its meaning. -/

namespace Sys2Proof.Machine

def exec (i : Instr) (s : State) : Host.Outcome State Fault Refusal :=
  match i with
  | .t16NoOperand base => Sys2Proof.Machine.execT16NoOperand base s
  | .t16Imm7 base imm => Sys2Proof.Machine.execT16Imm7 base imm s
  | .t16Imm8 base imm => Sys2Proof.Machine.execT16Imm8 base imm s
  | .t16Imm11 base imm => Sys2Proof.Machine.execT16Imm11 base imm s
  | .t16ImmOther base width imm => Sys2Proof.Machine.execT16ImmOther base width imm s
  | .t16RegImm8 base rd imm8 => Sys2Proof.Machine.execT16RegImm8 base rd imm8 s
  | .t16RegImm5 base rd rm imm5 => Sys2Proof.Machine.execT16RegImm5 base rd rm imm5 s
  | .t16TwoLow base rd rm => Sys2Proof.Machine.execT16TwoLow base rd rm s
  | .t16ThreeLow base rd rn rm => Sys2Proof.Machine.execT16ThreeLow base rd rn rm s
  | .t16TwoLowImm3 base rd rm imm3 => Sys2Proof.Machine.execT16TwoLowImm3 base rd rm imm3 s
  | .t16OneAny base rm => Sys2Proof.Machine.execT16OneAny base rm s
  | .t16TwoAny base r1 r2 => Sys2Proof.Machine.execT16TwoAny base r1 r2 s
  | .t32NoOperand base => Sys2Proof.Machine.execT32NoOperand base s
  | .t32OneRegImm12 base rd imm12 => Sys2Proof.Machine.execT32OneRegImm12 base rd imm12 s
  | .t32TwoRegImm12 base rd rn imm12 => Sys2Proof.Machine.execT32TwoRegImm12 base rd rn imm12 s
  | .t32TwoRegImm12Sf base rd rn imm12 sf => Sys2Proof.Machine.execT32TwoRegImm12Sf base rd rn imm12 sf s
  | .t32TwoRegImm5Sf base rd rn imm5 sf => Sys2Proof.Machine.execT32TwoRegImm5Sf base rd rn imm5 sf s
  | .t32TwoRegImm5Shift base rd rn imm5 shift => Sys2Proof.Machine.execT32TwoRegImm5Shift base rd rn imm5 shift s
  | .t32TwoRegImm5ShiftSf base rd rn imm5 shift sf => Sys2Proof.Machine.execT32TwoRegImm5ShiftSf base rd rn imm5 shift sf s
  | .t32ThreeReg base rd rn rm => Sys2Proof.Machine.execT32ThreeReg base rd rn rm s
  | .t32ThreeRegSf base rd rn rm sf => Sys2Proof.Machine.execT32ThreeRegSf base rd rn rm sf s
  | .t32ThreeRegImm5ShiftSf base rd rn rm imm5 shift sf => Sys2Proof.Machine.execT32ThreeRegImm5ShiftSf base rd rn rm imm5 shift sf s
  | .t32Branch base displacement => Sys2Proof.Machine.execT32Branch base displacement s
  | .t32CondBranch base displacement => Sys2Proof.Machine.execT32CondBranch base displacement s
  | .create capacity => Sys2Proof.Machine.execCreate capacity s
  | .append opcode => Sys2Proof.Machine.execAppend opcode s
  | .drain => Sys2Proof.Machine.execDrain s
  | .emit packer => Sys2Proof.Machine.execEmit packer s
  | .movImm rd imm8 => Sys2Proof.Machine.execMovImm rd imm8 s
  | .addThreeLow rd rn rm => Sys2Proof.Machine.execAddThreeLow rd rn rm s

end Sys2Proof.Machine
end

