-- ==== Sys2Proof/Machine/Step.lean ====
section
/-! DEFINITION. One step: the oldest command the host has issued is performed as one indivisible step (R10, R46); without
one the block is idle (R173). -/

namespace Sys2Proof.Machine

/-- One step of the block. The fetched command is off the port when it runs. -/
def step (s : State) : Host.Outcome State Fault Refusal :=
  match fetch s with
  | none => .next (idle s)
  | some (i, s') => exec i s'

/-- `s` with the command a table word stands for issued at the front of the port, so that the next step performs it
(logs 9, 10, 11); `s` itself where the decoder refuses the word. -/
def State.withFetchWord (s : State) (nbits w : Nat) : State :=
  match decodeTableWord nbits w with
  | some i => issueFirst i s
  | none => s

end Sys2Proof.Machine
end

