-- ==== Sys2Proof/Safety.lean ====
section
/-! DEFINITION. What a safe state and a safe step are. -/

namespace Sys2Proof.Machine

/-- The cells below the cursor and no others hold values (R24, clauses 2 and 4). -/
abbrev Sequence.writtenBelowCursor (q : Sequence) : Prop :=
  (∀ k < q.cursor, (q.mem.read k).isSome) ∧ ∀ c ∈ q.mem, c.1 < q.cursor

/-- The invariant of R24: the cursor is within the capacity (clause 1), exactly the cells below it hold values (clauses 2
and 4), and the memory has its canonical form. -/
abbrev Sequence.Inv (q : Sequence) : Prop := q.cursor ≤ q.capacity ∧ q.writtenBelowCursor ∧ q.mem.wf

/-- The invariant of a state: that of its sequence, where there is one. -/
abbrev State.Inv (s : State) : Prop := ∀ q ∈ s.seq, q.Inv

/-- The halfwords of a sequence in index order, `mem[0 .. cursor-1]` under the invariant. -/
def Sequence.contents (q : Sequence) : List Half := q.mem.map Prod.snd

/-- The next step does not fault. -/
def State.Safe (s : State) : Prop := ∀ e : Fault, step s ≠ .fault e

/-- A command that needs a sequence: APPEND, DRAIN, EMIT (R28). -/
def needsSequence : Instr → Bool
  | .append _ => true
  | .drain => true
  | .emit _ => true
  | .t16NoOperand .. | .t16Imm7 .. | .t16Imm8 .. | .t16Imm11 .. | .t16ImmOther .. | .t16RegImm8 .. | .t16RegImm5 ..
  | .t16TwoLow .. | .t16ThreeLow .. | .t16TwoLowImm3 .. | .t16OneAny .. | .t16TwoAny .. | .t32NoOperand ..
  | .t32OneRegImm12 .. | .t32TwoRegImm12 .. | .t32TwoRegImm12Sf .. | .t32TwoRegImm5Sf .. | .t32TwoRegImm5Shift ..
  | .t32TwoRegImm5ShiftSf .. | .t32ThreeReg .. | .t32ThreeRegSf .. | .t32ThreeRegImm5ShiftSf .. | .t32Branch ..
  | .t32CondBranch .. | .create _ | .movImm .. | .addThreeLow .. => false

end Sys2Proof.Machine
end

