-- ==== Sys2Proof/Certificates/Slice0/Obligations.lean ====
section
/-! DEFINITION. The statements for the provers. The vocabulary `Sys2Proof.Spec` below says what the rules say bit by bit
and command by command, without the model's packing functions. -/

namespace Sys2Proof.Spec

open Sys2Proof.Machine

/-- The command answers a next state that is `s` with the outputs `result` and `warn`: nothing else changes. -/
def answers (i : Instr) (s : State) (result : Result) (warn : Bool) : Prop :=
  exec i s = .next { s with out := ⟨result, warn⟩ }

/-- The command returns `Thumb16(w)` with the bits of `w` as given, the sideband 0, and changes no state. -/
def answersHalf (i : Instr) (s : State) (bits : Nat → Bool) : Prop :=
  ∃ w : Half, answers i s (.opcode (.thumb16 w)) false ∧ ∀ n < 16, w.getLsbD n = bits n

/-- The command returns `Thumb32(high, low)` of the 32-bit word with the bits as given (R95), the sideband `warn`, and
changes no state. -/
def answersWord (i : Instr) (s : State) (warn : Bool) (bits : Nat → Bool) : Prop :=
  ∃ hi lo : Half, answers i s (.opcode (.thumb32 hi lo)) warn ∧
    (∀ n < 16, lo.getLsbD n = bits n) ∧ ∀ n < 16, hi.getLsbD n = bits (n + 16)

/-- The command returns `Error(kind)` and changes no state. -/
def answersError (i : Instr) (s : State) (kind : ErrorKind) (warn : Bool) : Prop :=
  answers i s (.opcode (.error kind)) warn

/-- Bit `n` of a word that has bits `src` and up of `v` in the field of `width` bits at `lo`, and zeros elsewhere. -/
def field {k : Nat} (lo width src : Nat) (v : BitVec k) (n : Nat) : Bool :=
  decide (lo ≤ n ∧ n < lo + width) && v.getLsbD (n - lo + src)

/-- Bit `n` of a word that has `b` at bit `pos` and zeros elsewhere. -/
def bitAtPlace (pos : Nat) (b : Bool) (n : Nat) : Bool := decide (n = pos) && b

/-- imm12 in its three fields: imm12[11] at 26, imm12[10:8] at [14:12], imm12[7:0] at [7:0] (R67). -/
def imm12Fields (v : Imm) (n : Nat) : Bool := field 26 1 11 v n || field 12 3 8 v n || field 0 8 0 v n

/-- imm5 in its two fields: imm5[4:2] at [14:12], imm5[1:0] at [7:6] (R68). -/
def imm5Fields (v : Imm) (n : Nat) : Bool := field 12 3 2 v n || field 6 2 0 v n

/-- The shift code at [5:4]: LSL 00, LSR 01, ASR 10, ROR and RRX 11, NONE nothing (R69). -/
def shiftField : ShiftType → Nat → Bool
  | .lsl, _ => false
  | .lsr, n => decide (n = 4)
  | .asr, n => decide (n = 5)
  | .ror, n => decide (n = 4 ∨ n = 5)
  | .rrx, n => decide (n = 4 ∨ n = 5)
  | .none, _ => false

/-- The pairs the target reads as the other type: ROR with imm5[4:0] = 0, RRX with imm5[4:0] non-zero (R92). -/
def crossedPair : ShiftType → Imm → Bool
  | .ror, imm5 => imm5.toNat % 32 == 0
  | .rrx, imm5 => imm5.toNat % 32 != 0
  | .lsl, _ | .lsr, _ | .asr, _ | .none, _ => false

/-- The shift operand is refused: NONE under `encode_error`, or a crossed pair under `reject` (R130). -/
def shiftRefused (cfg : Config) (shift : ShiftType) (imm5 : Imm) : Prop :=
  (shift = .none ∧ cfg.noneShiftPolicy = .encodeError) ∨ (crossedPair shift imm5 = true ∧ cfg.shiftPairPolicy = .reject)

/-- The branch fields of a displacement: S at 26, imm10 = d[21:12] at [25:16], J1 at 13, J2 at 11, imm11 = d[11:1] at
[10:0], where `j` makes a J bit of S and its I bit (R141 to R143). -/
def branchFields (cfg : Config) (j : Bool → Bool → Bool) (d : Disp) (n : Nat) : Bool :=
  bitAtPlace 26 (d.getLsbD cfg.dispSBit.val) n || field 16 10 12 d n ||
    bitAtPlace 13 (j (d.getLsbD cfg.dispSBit.val) (d.getLsbD cfg.dispI1Bit.val)) n ||
    bitAtPlace 11 (j (d.getLsbD cfg.dispSBit.val) (d.getLsbD cfg.dispI2Bit.val)) n || field 0 11 1 d n

/-- The table of R80: the error a packer command's operands produce, if any. The register check stands first (R174). -/
def tableError (cfg : Config) : Instr → Option ErrorKind
  | .t16ImmOther _ width _ => if width ∈ [7, 8, 11] then none else some .encodeError
  | .t16RegImm8 _ rd _ | .movImm rd _ => if 7 < rd.toNat then some .registerOutOfRange else none
  | .t16RegImm5 _ rd rm _ | .t16TwoLow _ rd rm | .t16TwoLowImm3 _ rd rm _ =>
    if 7 < rd.toNat ∨ 7 < rm.toNat then some .registerOutOfRange else none
  | .t16ThreeLow _ rd rn rm | .addThreeLow rd rn rm =>
    if 7 < rd.toNat ∨ 7 < rn.toNat ∨ 7 < rm.toNat then some .registerOutOfRange else none
  | .t32TwoRegImm5Shift _ _ _ imm5 shift | .t32TwoRegImm5ShiftSf _ _ _ imm5 shift _
  | .t32ThreeRegImm5ShiftSf _ _ _ _ imm5 shift _ =>
    match shift with
    | .none => if cfg.noneShiftPolicy = .encodeError then some .encodeError else none
    | .lsl | .lsr | .asr | .ror | .rrx =>
      if crossedPair shift imm5 = true ∧ cfg.shiftPairPolicy = .reject then some .encodeError else none
  | .t16NoOperand .. | .t16Imm7 .. | .t16Imm8 .. | .t16Imm11 .. | .t16OneAny .. | .t16TwoAny .. | .t32NoOperand ..
  | .t32OneRegImm12 .. | .t32TwoRegImm12 .. | .t32TwoRegImm12Sf .. | .t32TwoRegImm5Sf .. | .t32ThreeReg ..
  | .t32ThreeRegSf .. | .t32Branch .. | .t32CondBranch .. | .create _ | .append _ | .drain | .emit _ => none

/-- A command of the `T16.` family; the two known mnemonics are of it (R84). -/
def isT16 : Instr → Bool
  | .t16NoOperand .. | .t16Imm7 .. | .t16Imm8 .. | .t16Imm11 .. | .t16ImmOther .. | .t16RegImm8 .. | .t16RegImm5 ..
  | .t16TwoLow .. | .t16ThreeLow .. | .t16TwoLowImm3 .. | .t16OneAny .. | .t16TwoAny .. | .movImm .. | .addThreeLow ..
    => true
  | .t32NoOperand .. | .t32OneRegImm12 .. | .t32TwoRegImm12 .. | .t32TwoRegImm12Sf .. | .t32TwoRegImm5Sf ..
  | .t32TwoRegImm5Shift .. | .t32TwoRegImm5ShiftSf .. | .t32ThreeReg .. | .t32ThreeRegSf .. | .t32ThreeRegImm5ShiftSf ..
  | .t32Branch .. | .t32CondBranch .. | .create _ | .append _ | .drain | .emit _ => false

/-- A command reported a failure (R170). -/
def reportsFailure : Result → Bool
  | .opcode (.error _) => true
  | .appended ok => !ok
  | .emitted _ ok => !ok
  | .nothing | .opcode (.thumb16 _) | .opcode (.thumb32 _ _) | .created | .drained _ => false

/-- The buffer as a bounded list (R24, clause 3): what the sequence stands for. -/
structure BoundedList where
  capacity : Nat
  words : List Half
  deriving DecidableEq, Repr

/-- All the words at the end where they fit, none where they do not. -/
def BoundedList.add (b : BoundedList) (words : List Half) : BoundedList :=
  if b.words.length + words.length ≤ b.capacity then { b with words := b.words ++ words } else b

/-- What a command does to the bounded list. -/
def listStep (cfg : Config) (b : Option BoundedList) : Instr → Option BoundedList
  | .create capacity => some ⟨capacity, []⟩
  | .append o => b.map fun l => match wordsOf o with
    | some words => l.add words
    | none => l
  | .emit p => b.map fun l => match wordsOf (pack cfg p) with
    | some words => l.add words
    | none => l
  | .drain | .t16NoOperand .. | .t16Imm7 .. | .t16Imm8 .. | .t16Imm11 .. | .t16ImmOther .. | .t16RegImm8 ..
  | .t16RegImm5 .. | .t16TwoLow .. | .t16ThreeLow .. | .t16TwoLowImm3 .. | .t16OneAny .. | .t16TwoAny ..
  | .t32NoOperand .. | .t32OneRegImm12 .. | .t32TwoRegImm12 .. | .t32TwoRegImm12Sf .. | .t32TwoRegImm5Sf ..
  | .t32TwoRegImm5Shift .. | .t32TwoRegImm5ShiftSf .. | .t32ThreeReg .. | .t32ThreeRegSf .. | .t32ThreeRegImm5ShiftSf ..
  | .t32Branch .. | .t32CondBranch .. | .movImm .. | .addThreeLow .. => b

/-- The bounded list a state's sequence stands for. -/
def listOf (s : State) : Option BoundedList := s.seq.map fun q => ⟨q.capacity, q.contents⟩

end Sys2Proof.Spec

open Sys2Proof Sys2Proof.Machine Sys2Proof.Spec

/-! ### The 16-bit packers (41_thumb16_packers.md) -/

/-- R100. -/
def Obligations.T16NoOperandReturnsItsBase : Prop :=
  ∀ (s : State) (base : Half), answers (.t16NoOperand base) s (.opcode (.thumb16 base)) false

/-- R101, for the three rows and for any width. -/
def Obligations.T16ImmMasksToItsWidth : Prop :=
  ∀ (s : State) (base : Half) (imm : Imm),
    answersHalf (.t16Imm7 base imm) s (fun n => base.getLsbD n || field 0 7 0 imm n) ∧
    answersHalf (.t16Imm8 base imm) s (fun n => base.getLsbD n || field 0 8 0 imm n) ∧
    answersHalf (.t16Imm11 base imm) s (fun n => base.getLsbD n || field 0 11 0 imm n) ∧
    ∀ width : Nat,
      (width ∈ [7, 8, 11] →
        answersHalf (.t16ImmOther base width imm) s (fun n => base.getLsbD n || field 0 width 0 imm n)) ∧
      (width ∉ [7, 8, 11] → answersError (.t16ImmOther base width imm) s .encodeError false)

/-- R102. -/
def Obligations.T16RegImm8PlacesItsFields : Prop :=
  ∀ (s : State) (base : Half) (rd : Reg) (imm8 : Imm),
    (rd.toNat ≤ 7 → answersHalf (.t16RegImm8 base rd imm8) s fun n =>
      base.getLsbD n || field 8 3 0 rd n || field 0 8 0 imm8 n) ∧
    (7 < rd.toNat → answersError (.t16RegImm8 base rd imm8) s .registerOutOfRange false)

/-- R103. -/
def Obligations.T16RegImm5PlacesItsFields : Prop :=
  ∀ (s : State) (base : Half) (rd rm : Reg) (imm5 : Imm),
    (rd.toNat ≤ 7 ∧ rm.toNat ≤ 7 → answersHalf (.t16RegImm5 base rd rm imm5) s fun n =>
      base.getLsbD n || field 0 3 0 rd n || field 3 3 0 rm n || field 6 5 0 imm5 n) ∧
    (7 < rd.toNat ∨ 7 < rm.toNat → answersError (.t16RegImm5 base rd rm imm5) s .registerOutOfRange false)

/-- R104. -/
def Obligations.T16TwoLowPlacesItsFields : Prop :=
  ∀ (s : State) (base : Half) (rd rm : Reg),
    (rd.toNat ≤ 7 ∧ rm.toNat ≤ 7 → answersHalf (.t16TwoLow base rd rm) s fun n =>
      base.getLsbD n || field 0 3 0 rd n || field 3 3 0 rm n) ∧
    (7 < rd.toNat ∨ 7 < rm.toNat → answersError (.t16TwoLow base rd rm) s .registerOutOfRange false)

/-- R105. -/
def Obligations.T16ThreeLowPlacesItsFields : Prop :=
  ∀ (s : State) (base : Half) (rd rn rm : Reg),
    (rd.toNat ≤ 7 ∧ rn.toNat ≤ 7 ∧ rm.toNat ≤ 7 → answersHalf (.t16ThreeLow base rd rn rm) s fun n =>
      base.getLsbD n || field 0 3 0 rd n || field 3 3 0 rn n || field 6 3 0 rm n) ∧
    (7 < rd.toNat ∨ 7 < rn.toNat ∨ 7 < rm.toNat →
      answersError (.t16ThreeLow base rd rn rm) s .registerOutOfRange false)

/-- R106. -/
def Obligations.T16TwoLowImm3PlacesItsFields : Prop :=
  ∀ (s : State) (base : Half) (rd rm : Reg) (imm3 : Imm),
    (rd.toNat ≤ 7 ∧ rm.toNat ≤ 7 → answersHalf (.t16TwoLowImm3 base rd rm imm3) s fun n =>
      base.getLsbD n || field 0 3 0 rd n || field 3 3 0 rm n || field 6 3 0 imm3 n) ∧
    (7 < rd.toNat ∨ 7 < rm.toNat → answersError (.t16TwoLowImm3 base rd rm imm3) s .registerOutOfRange false)

/-- R107. -/
def Obligations.T16OneAnyPlacesItsField : Prop :=
  ∀ (s : State) (base : Half) (rm : Reg),
    answersHalf (.t16OneAny base rm) s fun n => base.getLsbD n || field 3 4 0 rm n

/-- R108: r1[2:0] at [2:0], r1[3] displaced to bit 7, r2 at [6:3]. -/
def Obligations.T16TwoAnyDisplacesTheHighBit : Prop :=
  ∀ (s : State) (base : Half) (r1 r2 : Reg),
    answersHalf (.t16TwoAny base r1 r2) s fun n =>
      base.getLsbD n || field 0 3 0 r1 n || field 7 1 3 r1 n || field 3 4 0 r2 n

/-! ### The 32-bit field packers (42_thumb32_packers.md) -/

/-- R120. -/
def Obligations.T32NoOperandSplitsItsBase : Prop :=
  ∀ (s : State) (base : Word32), answersWord (.t32NoOperand base) s false fun n => base.getLsbD n

/-- R121. -/
def Obligations.T32OneRegImm12PlacesItsFields : Prop :=
  ∀ (s : State) (base : Word32) (rd : Reg) (imm12 : Imm),
    answersWord (.t32OneRegImm12 base rd imm12) s false fun n =>
      base.getLsbD n || field 8 4 0 rd n || imm12Fields imm12 n

/-- R122. -/
def Obligations.T32TwoRegImm12PlacesItsFields : Prop :=
  ∀ (s : State) (base : Word32) (rd rn : Reg) (imm12 : Imm),
    answersWord (.t32TwoRegImm12 base rd rn imm12) s false fun n =>
      base.getLsbD n || field 8 4 0 rd n || field 16 4 0 rn n || imm12Fields imm12 n

/-- R123. -/
def Obligations.T32TwoRegImm12SfPlacesItsFields : Prop :=
  ∀ (s : State) (base : Word32) (rd rn : Reg) (imm12 : Imm) (sf : Bool),
    answersWord (.t32TwoRegImm12Sf base rd rn imm12 sf) s false fun n =>
      base.getLsbD n || field 8 4 0 rd n || field 16 4 0 rn n || imm12Fields imm12 n || bitAtPlace 20 sf n

/-- R124. -/
def Obligations.T32TwoRegImm5SfPlacesItsFields : Prop :=
  ∀ (s : State) (base : Word32) (rd rn : Reg) (imm5 : Imm) (sf : Bool),
    answersWord (.t32TwoRegImm5Sf base rd rn imm5 sf) s false fun n =>
      base.getLsbD n || field 8 4 0 rd n || field 0 4 0 rn n || imm5Fields imm5 n || bitAtPlace 20 sf n

/-- R125 with R130 under both policies, and the sideband. The sideband of a refused
command is the model's reading of R130 (log 16). -/
def Obligations.T32TwoRegImm5ShiftPlacesItsFields : Prop :=
  ∀ (s : State) (base : Word32) (rd rn : Reg) (imm5 : Imm) (shift : ShiftType),
    (¬shiftRefused s.cfg shift imm5 →
      answersWord (.t32TwoRegImm5Shift base rd rn imm5 shift) s (crossedPair shift imm5) fun n =>
        base.getLsbD n || field 8 4 0 rd n || field 0 4 0 rn n || imm5Fields imm5 n || shiftField shift n) ∧
    (shiftRefused s.cfg shift imm5 →
      answersError (.t32TwoRegImm5Shift base rd rn imm5 shift) s .encodeError (crossedPair shift imm5))

/-- R126 with R130 under both policies, and the sideband. The sideband of a refused
command is the model's reading of R130 (log 16). -/
def Obligations.T32TwoRegImm5ShiftSfPlacesItsFields : Prop :=
  ∀ (s : State) (base : Word32) (rd rn : Reg) (imm5 : Imm) (shift : ShiftType) (sf : Bool),
    (¬shiftRefused s.cfg shift imm5 →
      answersWord (.t32TwoRegImm5ShiftSf base rd rn imm5 shift sf) s (crossedPair shift imm5) fun n =>
        base.getLsbD n || field 8 4 0 rd n || field 0 4 0 rn n || imm5Fields imm5 n || shiftField shift n ||
          bitAtPlace 20 sf n) ∧
    (shiftRefused s.cfg shift imm5 →
      answersError (.t32TwoRegImm5ShiftSf base rd rn imm5 shift sf) s .encodeError (crossedPair shift imm5))

/-- R127. -/
def Obligations.T32ThreeRegPlacesItsFields : Prop :=
  ∀ (s : State) (base : Word32) (rd rn rm : Reg),
    answersWord (.t32ThreeReg base rd rn rm) s false fun n =>
      base.getLsbD n || field 8 4 0 rd n || field 16 4 0 rn n || field 0 4 0 rm n

/-- R128. -/
def Obligations.T32ThreeRegSfPlacesItsFields : Prop :=
  ∀ (s : State) (base : Word32) (rd rn rm : Reg) (sf : Bool),
    answersWord (.t32ThreeRegSf base rd rn rm sf) s false fun n =>
      base.getLsbD n || field 8 4 0 rd n || field 16 4 0 rn n || field 0 4 0 rm n || bitAtPlace 20 sf n

/-- R129 with R130 under both policies, and the sideband. The sideband of a refused
command is the model's reading of R130 (log 16). -/
def Obligations.T32ThreeRegImm5ShiftSfPlacesItsFields : Prop :=
  ∀ (s : State) (base : Word32) (rd rn rm : Reg) (imm5 : Imm) (shift : ShiftType) (sf : Bool),
    (¬shiftRefused s.cfg shift imm5 →
      answersWord (.t32ThreeRegImm5ShiftSf base rd rn rm imm5 shift sf) s (crossedPair shift imm5) fun n =>
        base.getLsbD n || field 8 4 0 rd n || field 16 4 0 rn n || field 0 4 0 rm n || imm5Fields imm5 n ||
          shiftField shift n || bitAtPlace 20 sf n) ∧
    (shiftRefused s.cfg shift imm5 →
      answersError (.t32ThreeRegImm5ShiftSf base rd rn rm imm5 shift sf) s .encodeError (crossedPair shift imm5))

/-! ### The branch packers (43_branch_displacement.md) -/

/-- R142 at any indices: J = 1 where S equals I. No displacement is an error (R147). -/
def Obligations.T32BranchDerivesJFromEquality : Prop :=
  ∀ (s : State) (base : Word32) (d : Disp),
    answersWord (.t32Branch base d) s false fun n =>
      base.getLsbD n || branchFields s.cfg (fun sBit iBit => sBit == iBit) d n

/-- R143 at any indices: J = I. No displacement is an error (R147). -/
def Obligations.T32CondBranchKeepsRawJ : Prop :=
  ∀ (s : State) (base : Word32) (d : Disp),
    answersWord (.t32CondBranch base d) s false fun n =>
      base.getLsbD n || branchFields s.cfg (fun _ iBit => iBit) d n

/-- R146, for a base that is zero at the two J bits: the words differ at bit 13 iff S = 0, at bit 11 iff S = 0, and
nowhere else; for any base they are the same where S = 1. -/
def Obligations.BranchFormsDifferExactlyWhereSIsZero : Prop :=
  ∀ (s : State) (base : Word32) (d : Disp), ∃ hi lo hi' lo' : Half,
    answers (.t32Branch base d) s (.opcode (.thumb32 hi lo)) false ∧
    answers (.t32CondBranch base d) s (.opcode (.thumb32 hi' lo')) false ∧
    hi = hi' ∧
    (d.getLsbD s.cfg.dispSBit.val = true → lo = lo') ∧
    (base.getLsbD 13 = false → base.getLsbD 11 = false →
      ∀ n < 16, lo.getLsbD n ≠ lo'.getLsbD n ↔ ((n = 13 ∨ n = 11) ∧ d.getLsbD s.cfg.dispSBit.val = false))

/-- R145: with a zero base, each form's word reassembles to the displacement iff it is representable, at all indices
other than the implicit bit 0. -/
def Obligations.BranchRoundTripIffRepresentable : Prop :=
  ∀ (s : State) (d : Disp), s.cfg.dispSBit ≠ 0 → s.cfg.dispI1Bit ≠ 0 → s.cfg.dispI2Bit ≠ 0 →
    ∃ hi lo hi' lo' : Half,
      answers (.t32Branch 0 d) s (.opcode (.thumb32 hi lo)) false ∧
      answers (.t32CondBranch 0 d) s (.opcode (.thumb32 hi' lo')) false ∧
      (decodeBranch s.cfg (joinHalves hi lo) = d ↔ representable s.cfg d = true) ∧
      (decodeCond s.cfg (joinHalves hi' lo') = d ↔ representable s.cfg d = true)

/-- R145, the interval a host can rely on: its even displacements are representable at the document's indices, and both
forms give the same word at the indices 25, 24, 23 and at 24, 23, 22. -/
def Obligations.SafeIntervalIsIndependentOfTheIndices : Prop :=
  ∀ (s s' : State) (base : Word32) (d : Disp),
    (s.cfg.dispSBit = 25 ∧ s.cfg.dispI1Bit = 24 ∧ s.cfg.dispI2Bit = 23) →
    (s'.cfg.dispSBit = 24 ∧ s'.cfg.dispI1Bit = 23 ∧ s'.cfg.dispI2Bit = 22) →
    d.getLsbD 0 = false → -4194304 ≤ d.toInt → d.toInt ≤ 4194302 →
      representable s.cfg d = true ∧
      (∃ o, answers (.t32Branch base d) s (.opcode o) false ∧ answers (.t32Branch base d) s' (.opcode o) false) ∧
      ∃ o, answers (.t32CondBranch base d) s (.opcode o) false ∧ answers (.t32CondBranch base d) s' (.opcode o) false

/-! ### The mnemonics (R84) -/

/-- R84, R85: the produced words match the rows' patterns `00100dddiiiiiiii` and `0001100mmmnnnddd`; a register above 7 is
an error. -/
def Obligations.KnownMnemonicsProduceTheirPatterns : Prop :=
  ∀ (s : State) (rd rn rm : Reg) (imm8 : Imm),
    (rd.toNat ≤ 7 → ∃ w : Half, answers (.movImm rd imm8) s (.opcode (.thumb16 w)) false ∧
      (w.extractLsb' 11 5).toNat = 4 ∧ (w.extractLsb' 8 3).toNat = rd.toNat ∧
      (w.extractLsb' 0 8).toNat = imm8.toNat % 256) ∧
    (7 < rd.toNat → answersError (.movImm rd imm8) s .registerOutOfRange false) ∧
    (rd.toNat ≤ 7 ∧ rn.toNat ≤ 7 ∧ rm.toNat ≤ 7 →
      ∃ w : Half, answers (.addThreeLow rd rn rm) s (.opcode (.thumb16 w)) false ∧
      (w.extractLsb' 9 7).toNat = 12 ∧ (w.extractLsb' 6 3).toNat = rm.toNat ∧ (w.extractLsb' 3 3).toNat = rn.toNat ∧
      (w.extractLsb' 0 3).toNat = rd.toNat) ∧
    (7 < rd.toNat ∨ 7 < rn.toNat ∨ 7 < rm.toNat → answersError (.addThreeLow rd rn rm) s .registerOutOfRange false)

/-! ### The packers together -/

/-- R110, its five formats with a zero base. -/
def Obligations.LowRegisterFieldIsolation : Prop :=
  ∀ (s : State) (rd rn rm : Reg) (imm : Imm),
    (rd.toNat ≤ 7 → ∃ w : Half, answers (.t16RegImm8 0 rd imm) s (.opcode (.thumb16 w)) false ∧
      (w.extractLsb' 8 3).toNat = rd.toNat) ∧
    (7 < rd.toNat → answersError (.t16RegImm8 0 rd imm) s .registerOutOfRange false) ∧
    (rd.toNat ≤ 7 ∧ rm.toNat ≤ 7 →
      (∃ w : Half, answers (.t16RegImm5 0 rd rm imm) s (.opcode (.thumb16 w)) false ∧
        (w.extractLsb' 0 3).toNat = rd.toNat ∧ (w.extractLsb' 3 3).toNat = rm.toNat) ∧
      (∃ w : Half, answers (.t16TwoLow 0 rd rm) s (.opcode (.thumb16 w)) false ∧
        (w.extractLsb' 0 3).toNat = rd.toNat ∧ (w.extractLsb' 3 3).toNat = rm.toNat) ∧
      ∃ w : Half, answers (.t16TwoLowImm3 0 rd rm imm) s (.opcode (.thumb16 w)) false ∧
        (w.extractLsb' 0 3).toNat = rd.toNat ∧ (w.extractLsb' 3 3).toNat = rm.toNat) ∧
    (7 < rd.toNat ∨ 7 < rm.toNat →
      answersError (.t16RegImm5 0 rd rm imm) s .registerOutOfRange false ∧
      answersError (.t16TwoLow 0 rd rm) s .registerOutOfRange false ∧
      answersError (.t16TwoLowImm3 0 rd rm imm) s .registerOutOfRange false) ∧
    (rd.toNat ≤ 7 ∧ rn.toNat ≤ 7 ∧ rm.toNat ≤ 7 →
      ∃ w : Half, answers (.t16ThreeLow 0 rd rn rm) s (.opcode (.thumb16 w)) false ∧
        (w.extractLsb' 0 3).toNat = rd.toNat ∧ (w.extractLsb' 3 3).toNat = rn.toNat ∧
        (w.extractLsb' 6 3).toNat = rm.toNat) ∧
    (7 < rd.toNat ∨ 7 < rn.toNat ∨ 7 < rm.toNat →
      answersError (.t16ThreeLow 0 rd rn rm) s .registerOutOfRange false)

/-- R80: a packer command answers an `Opcode`, which is an error exactly where the table says so, and of that kind. -/
def Obligations.PackerErrorsAreExactlyTheTable : Prop :=
  ∀ (s : State) (i : Instr) (p : Packer), i.asPacker = some p →
    ∃ o warn, answers i s (.opcode o) warn ∧ ∀ kind, o = .error kind ↔ tableError s.cfg i = some kind

/-- R61, property T2: the family decides the length, never the operands. -/
def Obligations.LengthFollowsTheFamily : Prop :=
  ∀ (s : State) (i : Instr) (p : Packer), i.asPacker = some p →
    ∃ o warn, answers i s (.opcode o) warn ∧
      ((∃ kind, o = .error kind) ∨ (isT16 i = true ∧ ∃ w, o = .thumb16 w) ∨ (isT16 i = false ∧ ∃ hi lo, o = .thumb32 hi lo))

/-- R26: what a packer command returns depends on its operands and the parameters alone, not on the sequence, the commands
to come or the earlier outputs. -/
def Obligations.PackersReadNoState : Prop :=
  ∀ (s s' : State) (i : Instr) (p : Packer), i.asPacker = some p → s.cfg = s'.cfg →
    ∃ o warn, answers i s (.opcode o) warn ∧ answers i s' (.opcode o) warn

/-- R69, R130: under `preserve`, ROR and RRX with the same amount give the same word in all three shift formats, and
exactly one of the two warns. -/
def Obligations.RorAndRrxShareTheirWord : Prop :=
  ∀ (s : State) (base : Word32) (rd rn rm : Reg) (imm5 : Imm) (sf : Bool), s.cfg.shiftPairPolicy = .preserve →
    ∃ o₁ o₂ o₃ warn,
      answers (.t32TwoRegImm5Shift base rd rn imm5 .ror) s (.opcode o₁) warn ∧
      answers (.t32TwoRegImm5Shift base rd rn imm5 .rrx) s (.opcode o₁) (!warn) ∧
      answers (.t32TwoRegImm5ShiftSf base rd rn imm5 .ror sf) s (.opcode o₂) warn ∧
      answers (.t32TwoRegImm5ShiftSf base rd rn imm5 .rrx sf) s (.opcode o₂) (!warn) ∧
      answers (.t32ThreeRegImm5ShiftSf base rd rn rm imm5 .ror sf) s (.opcode o₃) warn ∧
      answers (.t32ThreeRegImm5ShiftSf base rd rn rm imm5 .rrx sf) s (.opcode o₃) (!warn)

/-! ### Encoding and decoding -/

/-- Every packer command either reports an error or produces exactly the words of the table-driven encoder (R62 to R64),
which calls no packing function of the machine. -/
def Obligations.PackersFollowTheFieldTables : Prop :=
  ∀ (s : State) (i : Instr) (p : Packer), i.asPacker = some p →
    ∃ o warn, answers i s (.opcode o) warn ∧ ((∃ kind, o = .error kind) ∨ wordsOf o = encode s.cfg i)

/-- Decoding the words of a well-formed packer row under its format tag gives the instruction back, every operand at every
value its field admits, at every setting of the parameters (R63, R64, R110, R145; property T5). -/
def Obligations.DecodeUndoesEncode : Prop :=
  ∀ (cfg : Config) (i : Instr) (f : Format), i.wellFormed cfg = true → formatOf i = some f →
    ∃ words, encode cfg i = some words ∧ decodeAs cfg f words = .ok i

/-- Decoding the bytes of a well-formed known mnemonic gives it back without a format tag (R84). -/
def Obligations.DecodeUndoesEncodeForMnemonics : Prop :=
  ∀ (cfg : Config) (rd rn rm : Reg) (imm8 : Imm),
    ((Instr.movImm rd imm8).wellFormed cfg = true → ∃ words, encode cfg (.movImm rd imm8) = some words ∧
      decode (serialise .little words) = .ok (.movImm rd imm8)) ∧
    ((Instr.addThreeLow rd rn rm).wellFormed cfg = true → ∃ words, encode cfg (.addThreeLow rd rn rm) = some words ∧
      decode (serialise .little words) = .ok (.addThreeLow rd rn rm))

/-- What the decoder reads from words, performed, produces exactly those words; and it is well-formed. The choice among the
commands that produce a word is the model's (log 9). -/
def Obligations.DecodedCommandProducesItsWords : Prop :=
  ∀ (s : State) (words : List Half) (i : Instr), decodeWords words = .ok i →
    i.wellFormed s.cfg = true ∧ ∃ o, answers i s (.opcode o) false ∧ wordsOf o = some words

/-- Words written out from the tables of R84, R63 and R64 and the examples of R105, R108, R121, R126, R142 and R143. Which
command a word without a format tag decodes to, in the first four clauses, is the model's choice (log 9). -/
def Obligations.DecodingOfWrittenOutWords : Prop :=
  decodeWords [0x2103] = .ok (.movImm 1 3) ∧
  decodeWords [0x180A] = .ok (.addThreeLow 2 1 0) ∧
  decodeWords [0xBF00] = .ok (.t16NoOperand 0xBF00) ∧
  decodeWords [0xF3BF, 0x8F4F] = .ok (.t32NoOperand 0xF3BF8F4F) ∧
  decodeAs Config.document .t16TwoAny [0x0099] = .ok (.t16TwoAny 0 9 3) ∧
  decodeAs Config.document .t32OneRegImm12 [0xF44F, 0x03FF] = .ok (.t32OneRegImm12 0xF04F0000 3 0x8FF) ∧
  decodeAs Config.document .t32TwoRegImm5ShiftSf [0xEA5F, 0x4869] = .ok (.t32TwoRegImm5ShiftSf 0xEA4F0000 8 9 17 .asr true) ∧
  decodeAs Config.document .t32Branch [0x07FF, 0x2FF8] = .ok (.t32Branch 0 0xFFFFFFF0) ∧
  decodeAs Config.document .t32CondBranch [0x0000, 0x0008] = .ok (.t32CondBranch 0 16)

/-- R41: halfword `h[k]` of the image stands at byte offsets 2k and 2k+1, bits 7:0 first for `little`, last for `big`. -/
def Obligations.SerialisedImageByteOrder : Prop :=
  ∀ (words : List Half) (k : Nat) (h : Half), words[k]? = some h →
    (serialise .little words)[2 * k]? = some (h.extractLsb' 0 8) ∧
    (serialise .little words)[2 * k + 1]? = some (h.extractLsb' 8 8) ∧
    (serialise .big words)[2 * k]? = some (h.extractLsb' 8 8) ∧
    (serialise .big words)[2 * k + 1]? = some (h.extractLsb' 0 8) ∧
    (serialise .little words).length = 2 * words.length ∧ (serialise .big words).length = 2 * words.length

/-! ### The buffer commands (44_sequence_buffer.md) -/

/-- R150, R27: whatever stood there, the new sequence has the capacity, cursor 0 and no cell with a value. -/
def Obligations.CreateResetsTheSequence : Prop :=
  ∀ (s : State) (capacity : Nat), ∃ q : Sequence,
    exec (.create capacity) s = .next { s with seq := some q, out := ⟨.created, false⟩ } ∧
    q.capacity = capacity ∧ q.cursor = 0 ∧ ∀ k, q.mem.read k = none

/-- R152: an error opcode is refused; an opcode whose words fit is written whole at the cursor, high halfword first, and
the cursor moves past it; one whose words do not fit leaves everything as it was. Every other cell is unchanged. -/
def Obligations.AppendWritesAllOrNothing : Prop :=
  ∀ (s : State) (q : Sequence), s.seq = some q →
    (∀ kind, answers (.append (.error kind)) s (.appended false) false) ∧
    (∀ w : Half,
      (q.cursor + 1 ≤ q.capacity → ∃ mem' : Memory,
        exec (.append (.thumb16 w)) s =
          .next { s with seq := some ⟨mem', q.cursor + 1, q.capacity⟩, out := ⟨.appended true, false⟩ } ∧
        mem'.read q.cursor = some w ∧ ∀ k, k ≠ q.cursor → mem'.read k = q.mem.read k) ∧
      (q.capacity < q.cursor + 1 → answers (.append (.thumb16 w)) s (.appended false) false)) ∧
    ∀ hi lo : Half,
      (q.cursor + 2 ≤ q.capacity → ∃ mem' : Memory,
        exec (.append (.thumb32 hi lo)) s =
          .next { s with seq := some ⟨mem', q.cursor + 2, q.capacity⟩, out := ⟨.appended true, false⟩ } ∧
        mem'.read q.cursor = some hi ∧ mem'.read (q.cursor + 1) = some lo ∧
        ∀ k, k ≠ q.cursor → k ≠ q.cursor + 1 → mem'.read k = q.mem.read k) ∧
      (q.capacity < q.cursor + 2 → answers (.append (.thumb32 hi lo)) s (.appended false) false)

/-- R153, R195: a capacity of 0 or 1 refuses every `Thumb32`, at any cursor. -/
def Obligations.TinyBuffersRefuseThumb32 : Prop :=
  ∀ (s : State) (q : Sequence) (hi lo : Half), s.seq = some q → q.capacity ≤ 1 →
    answers (.append (.thumb32 hi lo)) s (.appended false) false

/-- R155: under the invariant DRAIN returns the `cursor` halfwords `mem[0], …, mem[cursor-1]` and changes nothing. -/
def Obligations.DrainReturnsTheWrittenCells : Prop :=
  ∀ (s : State) (q : Sequence), s.seq = some q → q.Inv →
    ∃ words, answers .drain s (.drained words) false ∧ words.length = q.cursor ∧
      ∀ k < q.cursor, words[k]? = q.mem.read k

/-- R156: EMIT is the packer followed by APPEND of its result; it returns both results, and the state changes only where
the truth value is true. `i` is any spelling of the packer command. That EMIT drives the
packer's sideband, which R156 does not mention, is the model's reading of R130 (log 16). -/
def Obligations.EmitIsPackThenAppend : Prop :=
  ∀ (s : State) (q : Sequence) (i : Instr) (p : Packer), s.seq = some q → i.asPacker = some p →
    ∃ o warn ok q', answers i s (.opcode o) warn ∧
      exec (.append o) s = .next { s with seq := some q', out := ⟨.appended ok, false⟩ } ∧
      exec (.emit p) s = .next { s with seq := some q', out := ⟨.emitted o ok, warn⟩ } ∧
      (ok = false → q' = q) ∧ ((∃ kind, o = .error kind) → ok = false)

/-- R28, U16: APPEND, DRAIN and EMIT are refused where no sequence exists, and nothing else is refused anywhere. -/
def Obligations.RefusedExactlyBeforeTheFirstCreate : Prop :=
  (∀ (i : Instr) (s : State), needsSequence i = true → s.seq = none → exec i s = .refused .noSequence) ∧
  ∀ (i : Instr) (s : State) (r : Refusal), exec i s = .refused r →
    r = .noSequence ∧ needsSequence i = true ∧ s.seq = none

/-- Property T10: after a successful APPEND, DRAIN is the previous DRAIN followed by the opcode's words. -/
def Obligations.DrainGrowsByTheAppendedWords : Prop :=
  ∀ (s : State) (q : Sequence) (o : Opcode) (words : List Half), s.seq = some q → q.Inv → wordsOf o = some words →
    q.cursor + words.length ≤ q.capacity →
      ∃ before t, answers .drain s (.drained before) false ∧ exec (.append o) s = .next t ∧
        t.out.result = .appended true ∧ answers .drain t (.drained (before ++ words)) false

/-- R44: DRAIN leaves the sequence alone, and a second DRAIN returns the same. -/
def Obligations.DrainIsReadOnly : Prop :=
  ∀ s t : State, exec .drain s = .next t → t.seq = s.seq ∧ exec .drain t = .next t

/-! ### The whole machine -/

/-- R24: every step keeps the invariant, from every state that has it. -/
def Obligations.StepKeepsTheInvariant : Prop := ∀ s t : State, s.Inv → step s = .next t → t.Inv

/-- The state at reset has the invariant. -/
def Obligations.ResetHasTheInvariant : Prop := State.reset.Inv

/-- R12: under the invariant every step ends in a next state and never faults; the one exception is a command that needs a
sequence before there is one. -/
def Obligations.StepNeverFaultsUnderTheInvariant : Prop :=
  ∀ s : State, s.Inv → (∃ t, step s = .next t) ∨
    (step s = .refused .noSequence ∧ s.seq = none ∧ ∃ i rest, s.port = i :: rest ∧ needsSequence i = true)

/-- R157: after CREATE only APPEND (alone or inside EMIT) changes the sequence; it writes only at `cursor` and
`cursor + 1`, only increases `cursor`, overwrites no written cell and keeps the invariant. -/
def Obligations.SequenceIsAppendOnly : Prop :=
  ∀ (i : Instr) (s t : State) (q : Sequence), s.seq = some q → exec i s = .next t → (∀ c, i ≠ .create c) →
    ∃ q', t.seq = some q' ∧ q'.capacity = q.capacity ∧ q.cursor ≤ q'.cursor ∧ q'.cursor ≤ q.cursor + 2 ∧
      (∀ k, k < q.cursor ∨ q'.cursor ≤ k → q'.mem.read k = q.mem.read k) ∧
      (q' ≠ q → (∃ o, i = .append o) ∨ ∃ p, i = .emit p) ∧ (q.Inv → q'.Inv)

/-- The frame of every command: the parameters and the commands to come never change, and the sequence changes only under
CREATE, APPEND and EMIT (R26). -/
def Obligations.OnlyBufferWritersChangeTheSequence : Prop :=
  ∀ (i : Instr) (s t : State), exec i s = .next t →
    t.cfg = s.cfg ∧ t.port = s.port ∧
    ((∀ c, i ≠ .create c) → (∀ o, i ≠ .append o) → (∀ p, i ≠ .emit p) → t.seq = s.seq)

/-- R175: the state after a failed command equals the state before it; only the report differs. -/
def Obligations.FailuresLeaveTheStateAsItWas : Prop :=
  ∀ (i : Instr) (s t : State), exec i s = .next t → reportsFailure t.out.result = true → t = { s with out := t.out }

/-- R25, R176: no command reads the outputs of an earlier one, so a failure leaves no trace. -/
def Obligations.NoCommandReadsTheOutputs : Prop :=
  ∀ (i : Instr) (s : State) (out : Response), exec i { s with out := out } = exec i s

/-- R24 clause 3, R46: performing all the commands issued, from any state with the invariant and a sequence, ends in a
next state whose buffer is what the bounded list gives: the words of the appended opcodes in order of issue, each opcode
whole or not at all. -/
def Obligations.BufferRefinesABoundedList : Prop :=
  ∀ s : State, s.Inv → s.seq.isSome = true →
    ∃ t : State, Host.Core.run Sys2Proof.core s.port.length s = .next t ∧ t.port = [] ∧ t.cfg = s.cfg ∧ t.Inv ∧
      listOf t = s.port.foldl (listStep s.cfg) (listOf s)

/-! ### Steps and reset -/

/-- The state at reset: before the first CREATE (R28, R190), the parameters of R4 with their document values, decisions
and default policies. The empty port, the empty outputs and what the parameters without a value hold are the model's
choice (logs 1, 4, 5, 6, 7). -/
def Obligations.ResetIsBeforeTheFirstCreate : Prop :=
  State.reset.seq = none ∧ State.reset.port = [] ∧ State.reset.out = ⟨.nothing, false⟩ ∧
  State.reset.cfg.dispSBit = 25 ∧ State.reset.cfg.dispI1Bit = 24 ∧ State.reset.cfg.dispI2Bit = 23 ∧
  State.reset.cfg.shiftPairPolicy = .preserve ∧ State.reset.cfg.noneShiftPolicy = .encodeError ∧
  State.reset.cfg.targetByteOrder = .little ∧ State.reset.cfg.addrW = none ∧ State.reset.cfg.imageBase = none ∧
  State.reset.cfg.capacity = none ∧ State.reset.cfg.mnemonicTable = knownMnemonicRows ∧
  State.reset.cfg.regW = 4 ∧ State.reset.cfg.immW = 32 ∧ State.reset.cfg.dispW = 32

/-- A step performs the oldest command issued, with that command off the port; without one it drives no result and leaves
the rest alone (R10, R46, R173; the port is the model's, logs 4 and 5). -/
def Obligations.StepPerformsTheOldestCommand : Prop :=
  ∀ s : State,
    (∀ i rest, s.port = i :: rest → step s = exec i { s with port := rest }) ∧
    (s.port = [] → step s = .next { s with out := ⟨.nothing, false⟩ })

/-- The instruction the decoder reads from a table word is the one the next step performs once it is in place, in the state
it was placed in (logs 9 to 11). -/
def Obligations.StepRunsTheDecodedInstruction : Prop :=
  ∀ (s : State) (nbits w : Nat) (i : Instr), decodeTableWord nbits w = some i → step (s.withFetchWord nbits w) = exec i s

/-- R4, R6, R12: at the port widths of R4 (4, 32, 32) every command can be issued; and at any widths the one register, the
one immediate or the one displacement of a command must be within its port. That the widths bound what the host issues
and not what a step does is the model's (log 15). -/
def Obligations.CommandsFitTheirPorts : Prop :=
  (∀ (cfg : Config) (i : Instr), cfg.regW = 4 → cfg.immW = 32 → cfg.dispW = 32 → i.fitsPorts cfg = true) ∧
  ∀ (cfg : Config) (base16 : Half) (base32 : Word32) (r : Reg) (width : Nat) (v : Imm) (d : Disp),
    ((Instr.t16OneAny base16 r).fitsPorts cfg = true ↔ r.toNat < 2 ^ cfg.regW) ∧
    ((Instr.emit (.t16Imm base16 width v)).fitsPorts cfg = true ↔ v.toNat < 2 ^ cfg.immW) ∧
    ((Instr.t32Branch base32 d).fitsPorts cfg = true ↔ -2 ^ cfg.dispW ≤ 2 * d.toInt ∧ 2 * d.toInt < 2 ^ cfg.dispW)
end

