-- ==== Sys2Proof/Laws/State.lean ====
section
/-! SUPPORT. One lemma for each field and each update of the state, so that no proof unfolds a record update. -/

namespace Sys2Proof.Machine

@[simp] theorem State.answer_seq (s : State) (r : Result) (w : Bool) : (s.answer r w).seq = s.seq := rfl
@[simp] theorem State.answer_cfg (s : State) (r : Result) (w : Bool) : (s.answer r w).cfg = s.cfg := rfl
@[simp] theorem State.answer_port (s : State) (r : Result) (w : Bool) : (s.answer r w).port = s.port := rfl
@[simp] theorem State.answer_out (s : State) (r : Result) (w : Bool) : (s.answer r w).out = ⟨r, w⟩ := rfl

@[simp] theorem State.setSeq_seq (s : State) (q : Sequence) : (s.setSeq q).seq = some q := rfl
@[simp] theorem State.setSeq_cfg (s : State) (q : Sequence) : (s.setSeq q).cfg = s.cfg := rfl
@[simp] theorem State.setSeq_port (s : State) (q : Sequence) : (s.setSeq q).port = s.port := rfl
@[simp] theorem State.setSeq_out (s : State) (q : Sequence) : (s.setSeq q).out = s.out := rfl

@[simp] theorem State.answer_answer (s : State) (r r' : Result) (w w' : Bool) :
    (s.answer r w).answer r' w' = s.answer r' w' := rfl
@[simp] theorem State.setSeq_setSeq (s : State) (q q' : Sequence) : (s.setSeq q).setSeq q' = s.setSeq q' := rfl
theorem State.answer_setSeq (s : State) (r : Result) (w : Bool) (q : Sequence) :
    (s.answer r w).setSeq q = (s.setSeq q).answer r w := rfl

/-- Putting back the sequence that is there changes nothing. -/
theorem State.setSeq_self {s : State} {q : Sequence} (h : s.seq = some q) : s.setSeq q = s := by
  cases s; cases h; rfl

@[simp] theorem idle_seq (s : State) : (idle s).seq = s.seq := rfl
@[simp] theorem idle_cfg (s : State) : (idle s).cfg = s.cfg := rfl
@[simp] theorem idle_port (s : State) : (idle s).port = s.port := rfl
@[simp] theorem idle_out (s : State) : (idle s).out = ⟨.nothing, false⟩ := rfl

@[simp] theorem issueFirst_seq (i : Instr) (s : State) : (issueFirst i s).seq = s.seq := rfl
@[simp] theorem issueFirst_cfg (i : Instr) (s : State) : (issueFirst i s).cfg = s.cfg := rfl
@[simp] theorem issueFirst_port (i : Instr) (s : State) : (issueFirst i s).port = i :: s.port := rfl
@[simp] theorem issueFirst_out (i : Instr) (s : State) : (issueFirst i s).out = s.out := rfl

@[simp] theorem create_mem (c : Nat) : (Sequence.create c).mem = [] := rfl
@[simp] theorem create_cursor (c : Nat) : (Sequence.create c).cursor = 0 := rfl
@[simp] theorem create_capacity (c : Nat) : (Sequence.create c).capacity = c := rfl

@[simp] theorem fetch_nil {s : State} (h : s.port = []) : fetch s = none := by simp [fetch, h]
theorem fetch_cons {s : State} {i : Instr} {rest : List Instr} (h : s.port = i :: rest) :
    fetch s = some (i, { s with port := rest }) := by simp [fetch, h]
@[simp] theorem fetch_issueFirst (i : Instr) (s : State) : fetch (issueFirst i s) = some (i, s) := rfl

end Sys2Proof.Machine
end

