-- ==== Sys2Proof/Laws/Memory.lean ====
section
/-! SUPPORT. The laws of the buffer's cells: read after write, a write leaves the other cells alone, and every operation
keeps the canonical form. -/

namespace Sys2Proof.Machine

@[simp] theorem Memory.read_nil (k : Nat) : Memory.read [] k = none := rfl

/-- Every memory reads a cell just written as the value written. -/
@[simp] theorem Memory.read_write_same (m : Memory) (k : Nat) (v : Half) : (m.write k v).read k = some v := by
  induction m with
  | nil => simp [Memory.write, Memory.read]
  | cons c m ih =>
    obtain ⟨a, x⟩ := c
    simp only [Memory.write]
    split
    · simp [Memory.read]
    · split
      · simp [Memory.read]
      · rename_i _ hne
        simp [Memory.read, Ne.symm hne, ih]

/-- A write leaves every other cell alone. -/
theorem Memory.read_write_other (m : Memory) {k j : Nat} (v : Half) (h : j ≠ k) :
    (m.write k v).read j = m.read j := by
  induction m with
  | nil => simp [Memory.write, Memory.read, h.symm]
  | cons c m ih =>
    obtain ⟨a, x⟩ := c
    simp only [Memory.write]
    split
    · simp [Memory.read, h.symm]
    · split
      · rename_i _ heq
        simp [Memory.read, ← heq, h.symm]
      · simp only [Memory.read, ih]

/-- The indices of a memory after a write. -/
theorem Memory.mem_write {m : Memory} {k : Nat} {v : Half} {c : Nat × Half} (h : c ∈ m.write k v) :
    c = (k, v) ∨ c ∈ m := by
  induction m with
  | nil => simpa [Memory.write] using h
  | cons b m ih =>
    obtain ⟨a, x⟩ := b
    simp only [Memory.write] at h
    split at h
    · simpa using h
    · split at h
      · rcases List.mem_cons.1 h with h | h
        · exact .inl h
        · exact .inr (List.mem_cons_of_mem _ h)
      · rcases List.mem_cons.1 h with h | h
        · exact .inr (h ▸ List.mem_cons_self)
        · exact (ih h).imp_right (List.mem_cons_of_mem _)

/-- A write keeps the canonical form. -/
theorem Memory.wf_write {m : Memory} (k : Nat) (v : Half) (h : m.wf) : (m.write k v).wf := by
  induction m with
  | nil => simp [Memory.wf, Memory.write]
  | cons c m ih =>
    obtain ⟨a, x⟩ := c
    obtain ⟨hlt, hm⟩ := List.pairwise_cons.1 h
    simp only [Memory.write]
    split
    · rename_i hk
      exact List.pairwise_cons.2 ⟨fun b hb => by
        rcases List.mem_cons.1 hb with rfl | hb
        · exact hk
        · exact hk.trans (hlt b hb), h⟩
    · split
      · rename_i heq
        exact List.pairwise_cons.2 ⟨fun b hb => heq ▸ hlt b hb, hm⟩
      · rename_i h1 h2
        refine List.pairwise_cons.2 ⟨fun b hb => ?_, ih hm⟩
        rcases Memory.mem_write hb with rfl | hb
        · show a < k
          omega
        · exact hlt b hb

/-- Writing several cells keeps the canonical form. -/
theorem Memory.wf_writeAll {m : Memory} (k : Nat) (vs : List Half) (h : m.wf) : (m.writeAll k vs).wf := by
  induction vs generalizing m k with
  | nil => exact h
  | cons v vs ih => exact ih (k + 1) (Memory.wf_write k v h)

/-- Cells outside the written range read as before. -/
theorem Memory.read_writeAll_outside (m : Memory) {k j : Nat} (vs : List Half) (h : j < k ∨ k + vs.length ≤ j) :
    (m.writeAll k vs).read j = m.read j := by
  induction vs generalizing m k with
  | nil => rfl
  | cons v vs ih =>
    have hlen : (v :: vs).length = vs.length + 1 := rfl
    rw [Memory.writeAll, ih _ (by omega), Memory.read_write_other _ _ (by omega)]

/-- Cells of the written range read as the values written. -/
theorem Memory.read_writeAll_inside (m : Memory) (k : Nat) (vs : List Half) {j : Nat} (h : j < vs.length) :
    (m.writeAll k vs).read (k + j) = vs[j]? := by
  induction vs generalizing m k j with
  | nil => simp at h
  | cons v vs ih =>
    cases j with
    | zero => simp [Memory.writeAll, Memory.read_writeAll_outside _ vs (.inl (Nat.lt_succ_self k))]
    | succ j =>
      have := ih (m.write k v) (k + 1) (j := j) (by simpa using h)
      simpa [Memory.writeAll, Nat.add_assoc, Nat.add_comm 1 j] using this

/-- Indices listed after writing several cells: old ones, or in the written range. -/
theorem Memory.mem_writeAll {m : Memory} {k : Nat} {vs : List Half} {c : Nat × Half} (h : c ∈ m.writeAll k vs) :
    c ∈ m ∨ k ≤ c.1 ∧ c.1 < k + vs.length := by
  induction vs generalizing m k with
  | nil => exact .inl h
  | cons v vs ih =>
    have hlen : (v :: vs).length = vs.length + 1 := rfl
    rcases ih h with h | h
    · rcases Memory.mem_write h with rfl | h
      · exact .inr ⟨Nat.le_refl k, by show k < _; omega⟩
      · exact .inl h
    · exact .inr (by omega)

/-- A cell that reads as a value is listed. -/
theorem Memory.mem_of_read {m : Memory} {k : Nat} {v : Half} (h : m.read k = some v) : (k, v) ∈ m := by
  induction m with
  | nil => simp at h
  | cons c m ih =>
    obtain ⟨a, x⟩ := c
    rw [Memory.read] at h
    split at h
    · rename_i heq
      cases h
      exact heq ▸ List.mem_cons_self
    · exact List.mem_cons_of_mem _ (ih h)

/-- Writing at an index above all that are listed appends the cell. -/
theorem Memory.write_above {m : Memory} {k : Nat} (v : Half) (h : ∀ c ∈ m, c.1 < k) : m.write k v = m ++ [(k, v)] := by
  induction m with
  | nil => rfl
  | cons c m ih =>
    obtain ⟨a, x⟩ := c
    have ha : a < k := h (a, x) List.mem_cons_self
    simp only [Memory.write, if_neg (show ¬k < a by omega), if_neg (show ¬k = a by omega),
      ih fun c hc => h c (List.mem_cons_of_mem _ hc), List.cons_append]

/-- Writing cells from an index above all that are listed appends their values. -/
theorem Memory.values_writeAll_above {m : Memory} {k : Nat} (vs : List Half) (h : ∀ c ∈ m, c.1 < k) :
    (m.writeAll k vs).map Prod.snd = m.map Prod.snd ++ vs := by
  induction vs generalizing m k with
  | nil => simp [Memory.writeAll]
  | cons v vs ih =>
    have hw := Memory.write_above v h
    rw [Memory.writeAll, hw, ih]
    · simp
    · intro c hc
      rcases List.mem_append.1 hc with hc | hc
      · exact Nat.lt_succ_of_lt (h c hc)
      · rw [List.mem_singleton.1 hc]
        exact Nat.lt_succ_self k

/-- Cells that all hold values are read whole, each as it reads alone. -/
theorem Memory.readAll_ok {m : Memory} {k n : Nat} (h : ∀ j < n, (m.read (k + j)).isSome) :
    ∃ vs, m.readAll k n = .ok vs ∧ vs.length = n ∧ ∀ j < n, vs[j]? = m.read (k + j) := by
  induction n generalizing k with
  | zero => exact ⟨[], rfl, rfl, by omega⟩
  | succ n ih =>
    obtain ⟨v, hv⟩ := Option.isSome_iff_exists.1 (h 0 (by omega))
    obtain ⟨vs, hvs, hlen, hget⟩ := ih (k := k + 1) fun j hj => by
      simpa [Nat.add_assoc, Nat.add_comm 1 j] using h (j + 1) (by omega)
    refine ⟨v :: vs, ?_, by simp [hlen], fun j hj => ?_⟩
    · rw [Nat.add_zero] at hv
      simp [Memory.readAll, hv, hvs]
    · cases j with
      | zero => simpa using hv.symm
      | succ j => simpa [Nat.add_assoc, Nat.add_comm 1 j] using hget j (by omega)

end Sys2Proof.Machine
end

