-- ==== Sys2Proof/Laws/Ops.lean ====
section
/-! SUPPORT. For each shared operation, once, everything it can do. -/

namespace Sys2Proof.Machine

/-- Under the invariant the listed indices are 0 to cursor-1, in order. -/
theorem Sequence.Inv.indices {q : Sequence} (h : q.Inv) : q.mem.map Prod.fst = List.range q.cursor := by
  obtain ⟨_, ⟨hsome, hlt⟩, hwf⟩ := h
  refine List.Pairwise.eq_of_mem_iff (r := (· < ·)) (List.pairwise_map.2 hwf) List.pairwise_lt_range fun k => ?_
  rw [List.mem_range, List.mem_map]
  constructor
  · rintro ⟨c, hc, rfl⟩
    exact hlt c hc
  · intro hk
    obtain ⟨v, hv⟩ := Option.isSome_iff_exists.1 (hsome k hk)
    exact ⟨(k, v), Memory.mem_of_read hv, rfl⟩

/-- Under the invariant the contents are `cursor` halfwords. -/
theorem Sequence.Inv.length_contents {q : Sequence} (h : q.Inv) : q.contents.length = q.cursor := by
  have := congrArg List.length h.indices
  simpa [Sequence.contents] using this

/-- A cell below all that are read does not matter. -/
theorem Memory.readAll_cons {a : Nat} {x : Half} {m : Memory} {k : Nat} (n : Nat) (h : a < k) :
    Memory.readAll ((a, x) :: m) k n = Memory.readAll m k n := by
  induction n generalizing k with
  | zero => rfl
  | succ n ih => simp only [Memory.readAll, Memory.read, if_neg (show ¬a = k by omega), ih (show a < k + 1 by omega)]

/-- A memory whose indices are k, k+1, … reads as its values. -/
theorem Memory.readAll_consecutive (m : Memory) (k : Nat) (h : m.map Prod.fst = List.range' k m.length) :
    m.readAll k m.length = .ok (m.map Prod.snd) := by
  induction m generalizing k with
  | nil => rfl
  | cons c m ih =>
    obtain ⟨a, x⟩ := c
    rw [List.length_cons, List.range'_succ, List.map_cons] at h
    obtain ⟨ha, ht⟩ := List.cons.inj h
    have ha : a = k := ha
    subst ha
    simp [Memory.readAll, Memory.read, Memory.readAll_cons _ (Nat.lt_succ_self a), ih (a + 1) ht]

/-- DRAIN under the invariant: the contents (R155). -/
theorem Sequence.Inv.drain {q : Sequence} (h : q.Inv) : q.drain = .ok q.contents := by
  have hlen : q.mem.length = q.cursor := by simpa [Sequence.contents] using h.length_contents
  have hread := Memory.readAll_consecutive q.mem 0 (by rw [hlen, ← List.range_eq_range']; exact h.indices)
  rw [hlen] at hread
  rw [Sequence.drain, Sequence.memRead, if_pos (by simpa using h.1), hread]
  rfl

/-- The contents are the cells' values in index order. -/
theorem Sequence.Inv.getElem?_contents {q : Sequence} (h : q.Inv) {k : Nat} (hk : k < q.cursor) :
    q.contents[k]? = q.mem.read k := by
  obtain ⟨vs, hvs, -, hget⟩ := Memory.readAll_ok (m := q.mem) (k := 0) (n := q.cursor) (by simpa using h.2.1.1)
  have hd := h.drain
  rw [Sequence.drain, Sequence.memRead, if_pos (by simpa using h.1), hvs] at hd
  cases hd
  simpa using hget k hk

/-- The sequence with the words in place and the cursor past them: a successful append. -/
def Sequence.appended (q : Sequence) (words : List Half) : Sequence :=
  { q with mem := q.mem.writeAll q.cursor words, cursor := q.cursor + words.length }

@[simp] theorem Sequence.appended_cursor (q : Sequence) (ws : List Half) :
    (q.appended ws).cursor = q.cursor + ws.length := rfl
@[simp] theorem Sequence.appended_capacity (q : Sequence) (ws : List Half) : (q.appended ws).capacity = q.capacity := rfl
@[simp] theorem Sequence.appended_mem (q : Sequence) (ws : List Half) :
    (q.appended ws).mem = q.mem.writeAll q.cursor ws := rfl

/-- All the words where there is room, none where there is not; never a fault (R152 to R154). -/
theorem Sequence.appendWords_eq (q : Sequence) (ws : List Half) :
    q.appendWords ws = .ok (if q.cursor + ws.length ≤ q.capacity then (q.appended ws, true) else (q, false)) := by
  unfold Sequence.appendWords Sequence.memWrite
  by_cases h : q.cursor + ws.length ≤ q.capacity
  · rw [if_pos h, if_pos h, if_pos h]
    rfl
  · rw [if_neg h, if_neg h]

/-- `words_needed` is the length of `words_of` (R151). -/
theorem wordsNeeded_eq (o : Opcode) : wordsNeeded o = (wordsOf o).map List.length := by cases o <;> rfl

/-- APPEND in full (R152): it never faults. -/
theorem Sequence.append_eq (q : Sequence) (o : Opcode) :
    q.append o = .ok (match wordsOf o with
      | none => (q, false)
      | some ws => if q.cursor + ws.length ≤ q.capacity then (q.appended ws, true) else (q, false)) := by
  unfold Sequence.append
  cases wordsOf o with
  | none => rfl
  | some ws => exact q.appendWords_eq ws

/-- What APPEND can do: everything, or nothing at all. -/
theorem Sequence.append_cases {q q' : Sequence} {o : Opcode} {ok : Bool} (h : q.append o = .ok (q', ok)) :
    (ok = true ∧ ∃ ws, wordsOf o = some ws ∧ q.cursor + ws.length ≤ q.capacity ∧ q' = q.appended ws) ∨
    (ok = false ∧ q' = q ∧ ∀ ws, wordsOf o = some ws → q.capacity < q.cursor + ws.length) := by
  rw [Sequence.append_eq] at h
  cases hw : wordsOf o with
  | none =>
    rw [hw] at h
    cases h
    exact .inr ⟨rfl, rfl, fun _ h => nomatch h⟩
  | some ws =>
    rw [hw] at h
    by_cases hroom : q.cursor + ws.length ≤ q.capacity
    · simp only [if_pos hroom] at h
      cases h
      exact .inl ⟨rfl, ws, rfl, hroom, rfl⟩
    · simp only [if_neg hroom] at h
      cases h
      exact .inr ⟨rfl, rfl, fun _ h => by cases h; omega⟩

/-- APPEND on a state with a sequence answers, whatever the opcode. -/
theorem appendAndReport_next {s : State} {q : Sequence} (hq : s.seq = some q) (o : Opcode) (report : Bool → Result)
    (w : Bool) : ∃ q' ok, q.append o = .ok (q', ok) ∧
      appendAndReport o report w s = .next ((s.setSeq q').answer (report ok) w) := by
  have h := q.append_eq o
  refine ⟨_, _, h, ?_⟩
  rw [appendAndReport, onSequence, hq]
  simp only [h]

/-- APPEND on a state with a sequence, in full: the state is as it was but for the report, or the words stand at the
cursor (R152). -/
theorem appendAndReport_eq {s : State} {q : Sequence} (hq : s.seq = some q) (o : Opcode) (report : Bool → Result)
    (w : Bool) : appendAndReport o report w s = match wordsOf o with
      | none => .next (s.answer (report false) w)
      | some ws => if q.cursor + ws.length ≤ q.capacity then .next ((s.setSeq (q.appended ws)).answer (report true) w)
        else .next (s.answer (report false) w) := by
  rw [appendAndReport, onSequence, hq]
  simp only [q.append_eq o]
  cases wordsOf o with
  | none => simp only [State.setSeq_self hq]
  | some ws =>
    by_cases h : q.cursor + ws.length ≤ q.capacity <;> simp only [h, if_true, if_false, State.setSeq_self hq]

/-- Before the first CREATE it is refused (R28). -/
theorem appendAndReport_refused {s : State} (hq : s.seq = none) (o : Opcode) (report : Bool → Result) (w : Bool) :
    appendAndReport o report w s = .refused .noSequence := by
  rw [appendAndReport, onSequence, hq]

/-- A new sequence keeps the invariant (R27). -/
theorem Sequence.create_inv (c : Nat) : (Sequence.create c).Inv :=
  ⟨Nat.zero_le _, ⟨fun _ h => absurd h (Nat.not_lt_zero _), fun _ h => nomatch h⟩, List.Pairwise.nil⟩

/-- A successful append keeps the invariant (R24). -/
theorem Sequence.Inv.appended {q : Sequence} (h : q.Inv) {ws : List Half} (hroom : q.cursor + ws.length ≤ q.capacity) :
    (q.appended ws).Inv := by
  obtain ⟨hle, ⟨hsome, hlt⟩, hwf⟩ := h
  refine ⟨hroom, ⟨fun k hk => ?_, fun c hc => ?_⟩, Memory.wf_writeAll _ _ hwf⟩
  · rw [Sequence.appended_cursor] at hk
    by_cases hin : k < q.cursor
    · rw [Sequence.appended_mem, Memory.read_writeAll_outside _ _ (.inl hin)]
      exact hsome k hin
    · obtain ⟨j, rfl⟩ := Nat.exists_eq_add_of_le (Nat.not_lt.1 hin)
      rw [Sequence.appended_mem, Memory.read_writeAll_inside _ _ _ (by omega),
        List.getElem?_eq_getElem (by omega)]
      rfl
  · rw [Sequence.appended_cursor]
    rcases Memory.mem_writeAll hc with hc | hc
    · exact Nat.lt_add_right _ (hlt c hc)
    · exact hc.2

/-- The contents after a successful append (R24, clause 3). -/
theorem Sequence.Inv.contents_appended {q : Sequence} (h : q.Inv) (ws : List Half) :
    (q.appended ws).contents = q.contents ++ ws :=
  Memory.values_writeAll_above ws h.2.1.2

/-- Every memory operation keeps the canonical form: a successful APPEND and CREATE are all there are (R157). -/
theorem Sequence.append_wf {q q' : Sequence} {o : Opcode} {ok : Bool} (h : q.append o = .ok (q', ok))
    (hwf : q.mem.wf) : q'.mem.wf := by
  rcases Sequence.append_cases h with ⟨-, ws, -, -, rfl⟩ | ⟨-, rfl, -⟩
  · exact Memory.wf_writeAll _ _ hwf
  · exact hwf

end Sys2Proof.Machine
end

