-- ==== Sys2Proof/Laws/Exec.lean ====
section
/-! SUPPORT. What the meanings do, in terms of the shared operations: one equation for the packer commands, one for each
buffer command, and one inversion for a step of any kind. -/

namespace Sys2Proof.Machine

/-- A packer command returns its opcode and its sideband and changes nothing else (R26). -/
theorem exec_packer {i : Instr} {p : Packer} (h : i.asPacker = some p) (s : State) :
    exec i s = returnOpcode (pack s.cfg p) (warnShiftPair p) s := by
  cases i <;> cases h <;> rfl

/-- A command that is no packer is one of the four buffer commands (R60). -/
theorem buffer_command {i : Instr} (h : i.asPacker = none) :
    (∃ c, i = .create c) ∨ (∃ o, i = .append o) ∨ i = .drain ∨ ∃ p, i = .emit p := by
  cases i <;> simp_all [Instr.asPacker]

theorem exec_create (c : Nat) (s : State) :
    exec (.create c) s = .next ((s.setSeq (Sequence.create c)).answer .created false) := rfl

theorem exec_append (o : Opcode) (s : State) : exec (.append o) s = appendAndReport o .appended false s := rfl

theorem exec_emit (p : Packer) (s : State) :
    exec (.emit p) s = appendAndReport (pack s.cfg p) (.emitted (pack s.cfg p)) (warnShiftPair p) s := rfl

/-- DRAIN under the invariant (R155). -/
theorem exec_drain {s : State} {q : Sequence} (hq : s.seq = some q) (h : q.Inv) :
    exec .drain s = .next (s.answer (.drained q.contents) false) := by
  show execDrain s = _
  rw [execDrain, onSequence, hq]
  simp only [h.drain]

theorem exec_drain_refused {s : State} (hq : s.seq = none) : exec .drain s = .refused .noSequence := by
  show execDrain s = _
  rw [execDrain, onSequence, hq]

/-- DRAIN in any state, where it answers: only the outputs change (R44). -/
theorem exec_drain_next {s t : State} (h : exec .drain s = .next t) :
    ∃ q ws, s.seq = some q ∧ q.drain = .ok ws ∧ t = s.answer (.drained ws) false := by
  change execDrain s = _ at h
  rw [execDrain, onSequence] at h
  cases hq : s.seq with
  | none => rw [hq] at h; cases h
  | some q =>
    rw [hq] at h
    simp only at h
    cases hd : q.drain with
    | error e => rw [hd] at h; cases h
    | ok ws => rw [hd] at h; cases h; exact ⟨q, ws, rfl, hd, rfl⟩

/-- Everything a command that answers can do to the sequence (R26, R157): nothing; a new one; or one more append. -/
theorem exec_cases {i : Instr} {s t : State} (h : exec i s = .next t) :
    (t = { s with out := t.out }) ∨
    (∃ c, i = .create c ∧ t = (s.setSeq (Sequence.create c)).answer .created false) ∨
    (∃ q ws, s.seq = some q ∧ q.cursor + ws.length ≤ q.capacity ∧ t = { s.setSeq (q.appended ws) with out := t.out } ∧
      ((∃ o, i = .append o ∧ wordsOf o = some ws) ∨ ∃ p, i = .emit p ∧ wordsOf (pack s.cfg p) = some ws)) := by
  have hreport : ∀ (o : Opcode) (report : Bool → Result) (w : Bool), appendAndReport o report w s = .next t →
      (t = { s with out := t.out }) ∨
      ∃ q ws, s.seq = some q ∧ q.cursor + ws.length ≤ q.capacity ∧ t = { s.setSeq (q.appended ws) with out := t.out } ∧
        wordsOf o = some ws := by
    intro o report w h
    cases hq : s.seq with
    | none => rw [appendAndReport_refused hq] at h; cases h
    | some q =>
      obtain ⟨q', ok, happ, heq⟩ := appendAndReport_next hq o report w
      rw [heq] at h
      cases h
      rcases Sequence.append_cases happ with ⟨-, ws, hw, hroom, rfl⟩ | ⟨-, rfl, -⟩
      · exact .inr ⟨q, ws, rfl, hroom, rfl, hw⟩
      · exact .inl (by rw [State.setSeq_self hq, State.answer, hq])
  cases hp : i.asPacker with
  | some p =>
    rw [exec_packer hp, returnOpcode] at h
    cases h
    exact .inl rfl
  | none =>
    rcases buffer_command hp with ⟨c, rfl⟩ | ⟨o, rfl⟩ | rfl | ⟨p, rfl⟩
    · cases h
      exact .inr (.inl ⟨c, rfl, rfl⟩)
    · rcases hreport _ _ _ h with h | ⟨q, ws, hq, hroom, ht, hw⟩
      · exact .inl h
      · exact .inr (.inr ⟨q, ws, hq, hroom, ht, .inl ⟨o, rfl, hw⟩⟩)
    · obtain ⟨q, ws, -, -, rfl⟩ := exec_drain_next h
      exact .inl rfl
    · rcases hreport _ _ _ h with h | ⟨q, ws, hq, hroom, ht, hw⟩
      · exact .inl h
      · exact .inr (.inr ⟨q, ws, hq, hroom, ht, .inr ⟨p, rfl, hw⟩⟩)

/-- A step is idle or performs the oldest command issued. -/
theorem step_cases (s : State) :
    (s.port = [] ∧ step s = .next (idle s)) ∨
    ∃ i rest, s.port = i :: rest ∧ step s = exec i { s with port := rest } := by
  cases hp : s.port with
  | nil => exact .inl ⟨rfl, by rw [step, fetch_nil hp]⟩
  | cons i rest => exact .inr ⟨i, rest, rfl, by rw [step, fetch_cons hp]⟩

end Sys2Proof.Machine
end

