-- ==== Sys2Proof/Laws/Bits.lean ====
section
/-! SUPPORT. Each field helper bit by bit, so that a packed word is read by `simp` and `omega`. -/

namespace Sys2Proof.Machine

@[simp] theorem getLsbD_reg16 (r : Reg) (n : Nat) : (reg16 r).getLsbD n = r.getLsbD n := by
  rw [reg16, BitVec.getLsbD_setWidth]
  by_cases h : n < 16
  · simp [h]
  · simp [h, BitVec.getLsbD_of_ge r n (by omega)]

@[simp] theorem getLsbD_reg32 (r : Reg) (n : Nat) : (reg32 r).getLsbD n = r.getLsbD n := by
  rw [reg32, BitVec.getLsbD_setWidth]
  by_cases h : n < 32
  · simp [h]
  · simp [h, BitVec.getLsbD_of_ge r n (by omega)]

/-- A low register has no bit 3 (R90). -/
theorem isLow_iff (r : Reg) : isLow r = true ↔ r.toNat ≤ 7 := by simp [isLow]

theorem isLow_iff_bit (r : Reg) : isLow r = true ↔ r.getLsbD 3 = false := by revert r; decide

/-- The bits of a register above its field. -/
theorem getLsbD_reg_ge (r : Reg) {n : Nat} (h : 4 ≤ n) : r.getLsbD n = false := BitVec.getLsbD_of_ge r n h

theorem getLsbD_low_ge {r : Reg} (hr : isLow r = true) {n : Nat} (h : 3 ≤ n) : r.getLsbD n = false := by
  rcases Nat.eq_or_lt_of_le h with rfl | h
  · exact (isLow_iff_bit r).1 hr
  · exact getLsbD_reg_ge r h

/-- The mask `2^width - 1` bit by bit. -/
theorem getLsbD_mask (width n : Nat) : (BitVec.ofNat 32 (2 ^ width - 1)).getLsbD n = (decide (n < 32) && decide (n < width)) := by
  rw [BitVec.getLsbD_ofNat, Nat.testBit_two_pow_sub_one]

@[simp] theorem getLsbD_immField16 (width : Nat) (v : Imm) (n : Nat) :
    (immField16 width v).getLsbD n = (decide (n < 16) && decide (n < width) && v.getLsbD n) := by
  rw [immField16, BitVec.getLsbD_setWidth, BitVec.getLsbD_and, getLsbD_mask]
  by_cases h : n < 16
  · simp [h, show n < 32 by omega, Bool.and_comm]
  · simp [h]

/-- A constant mask of low ones. -/
theorem getLsbD_low_mask (width n : Nat) (h : width ≤ 32) (m : Word32) (hm : m = BitVec.ofNat 32 (2 ^ width - 1)) :
    m.getLsbD n = decide (n < width) := by
  rw [hm, getLsbD_mask]
  by_cases hn : n < width
  · simp [hn, show n < 32 by omega]
  · simp [hn]

@[simp] theorem getLsbD_bitAt (b : Bool) (k n : Nat) :
    (bitAt b k).getLsbD n = (decide (n < 32) && decide (n = k) && b) := by
  cases b with
  | false => simp [bitAt]
  | true =>
    rw [bitAt, if_pos rfl, BitVec.getLsbD_shiftLeft, getLsbD_low_mask 1 _ (by omega) 1 (by decide)]
    by_cases h : n < 32 <;> by_cases hk : n = k <;> simp [h, hk]
    omega

@[simp] theorem getLsbD_sfBit (sf : Bool) (n : Nat) : (sfBit sf).getLsbD n = (decide (n = 20) && sf) := by
  rw [sfBit, getLsbD_bitAt]
  by_cases h : n = 20 <;> simp [h]

/-- `split12` bit by bit (R67). -/
theorem getLsbD_split12 (v : Imm) (n : Nat) :
    (split12 v).getLsbD n = (decide (n = 26) && v.getLsbD 11 || decide (12 ≤ n) && decide (n < 15) && v.getLsbD (n - 4)
      || decide (n < 8) && v.getLsbD n) := by
  rw [split12, BitVec.getLsbD_or, BitVec.getLsbD_or, BitVec.getLsbD_shiftLeft, BitVec.getLsbD_shiftLeft,
    BitVec.getLsbD_and, BitVec.getLsbD_and, BitVec.getLsbD_and, BitVec.getLsbD_ushiftRight, BitVec.getLsbD_ushiftRight,
    getLsbD_low_mask 1 _ (by omega) 0x1 (by decide), getLsbD_low_mask 3 _ (by omega) 0x7 (by decide),
    getLsbD_low_mask 8 _ (by omega) 0xFF (by decide)]
  by_cases hn : n < 32
  · interval_cases n <;> simp
  · rw [decide_eq_false hn, decide_eq_false (show ¬n = 26 by omega), decide_eq_false (show ¬n < 15 by omega),
      decide_eq_false (show ¬n < 8 by omega)]
    simp

/-- `split5` bit by bit (R68). -/
theorem getLsbD_split5 (v : Imm) (n : Nat) :
    (split5 v).getLsbD n = (decide (12 ≤ n) && decide (n < 15) && v.getLsbD (n - 10)
      || decide (6 ≤ n) && decide (n < 8) && v.getLsbD (n - 6)) := by
  rw [split5, BitVec.getLsbD_or, BitVec.getLsbD_shiftLeft, BitVec.getLsbD_shiftLeft,
    BitVec.getLsbD_and, BitVec.getLsbD_and, BitVec.getLsbD_ushiftRight,
    getLsbD_low_mask 3 _ (by omega) 0x7 (by decide), getLsbD_low_mask 2 _ (by omega) 0x3 (by decide)]
  by_cases hn : n < 32
  · interval_cases n <;> simp
  · rw [decide_eq_false hn, decide_eq_false (show ¬n < 15 by omega), decide_eq_false (show ¬n < 8 by omega)]
    simp

/-- A masked value in its field, bit by bit (R62). -/
@[simp] theorem getLsbD_putSlot (f : Slot) (v : Word32) (n : Nat) :
    (putSlot f v).getLsbD n = (decide (n < 32) && decide (f.lo ≤ n) && decide (n - f.lo < f.width) && v.getLsbD (n - f.lo)) := by
  rw [putSlot, BitVec.getLsbD_shiftLeft, BitVec.getLsbD_setWidth, BitVec.getLsbD_setWidth]
  by_cases h : n < 32
  · by_cases hl : f.lo ≤ n
    · simp [h, hl, show n - f.lo < 32 by omega, show ¬n < f.lo by omega]
    · simp [hl, show n < f.lo by omega]
  · simp [h]

/-- A field read out, bit by bit (R7). -/
@[simp] theorem getLsbD_getSlot (lo width : Nat) (w : Word32) (n : Nat) :
    (getSlot lo width w).getLsbD n = (decide (n < 32) && decide (n < width) && w.getLsbD (lo + n)) := by
  rw [getSlot, BitVec.getLsbD_setWidth, BitVec.getLsbD_extractLsb']
  simp [Bool.and_assoc]

@[simp] theorem getLsbD_hi16 (w : Word32) (n : Nat) : (hi16 w).getLsbD n = (decide (n < 16) && w.getLsbD (16 + n)) := by
  rw [hi16, BitVec.getLsbD_setWidth, BitVec.getLsbD_ushiftRight]

@[simp] theorem getLsbD_lo16 (w : Word32) (n : Nat) : (lo16 w).getLsbD n = (decide (n < 16) && w.getLsbD n) := by
  rw [lo16, BitVec.getLsbD_setWidth]

/-- At the widths of R4 every packer command can be put on the ports (R12). -/
theorem Packer.fitsPorts_of_widths {cfg : Config} (hr : cfg.regW = 4) (hi : cfg.immW = 32) (hd : cfg.dispW = 32)
    (p : Packer) : p.fitsPorts cfg = true := by
  simp only [Packer.fitsPorts, hr, hi, hd, Bool.and_eq_true, List.all_eq_true, decide_eq_true_eq]
  refine ⟨⟨fun r _ => r.isLt, fun v _ => v.isLt⟩, fun d _ => ?_⟩
  have := BitVec.two_mul_toInt_lt (x := d)
  have := BitVec.le_two_mul_toInt (x := d)
  omega

/-- The fields of the table cover exactly the bits of the format's operand mask (R63, R64). -/
theorem formatMask_eq (f : Format) : formatMask f = f.operandMask := by cases f <;> decide

/-- The halves joined are the word (R95). -/
theorem joinHalves_hi16_lo16 (w : Word32) : joinHalves (hi16 w) (lo16 w) = w := by
  refine BitVec.eq_of_getLsbD_eq fun n hn => ?_
  rw [joinHalves, BitVec.getLsbD_or, BitVec.getLsbD_shiftLeft, BitVec.getLsbD_setWidth, BitVec.getLsbD_setWidth,
    getLsbD_hi16, getLsbD_lo16]
  by_cases h : n < 16
  · simp [h, hn]
  · have : 16 + (n - 16) = n := by omega
    simp [h, this, show n - 16 < 32 by omega, show n - 16 < 16 by omega, hn]

/-- `split32` in terms of the halves (R95). -/
theorem split32_eq (w : Word32) : split32 w = .thumb32 (hi16 w) (lo16 w) := rfl

/-! ### The shift operand -/

/-- imm5[4:0] is zero. -/
theorem and_0x1F_eq_zero_iff (v : Imm) : v &&& 0x1F = 0 ↔ v.toNat % 32 = 0 := by
  rw [← BitVec.toNat_inj, BitVec.toNat_and, show (0x1F : Imm).toNat = 2 ^ 5 - 1 from rfl,
    Nat.and_two_pow_sub_one_eq_mod]
  rfl

/-- `ambiguous_pair` of ROR (R92). -/
theorem ambiguousPair_ror (v : Imm) : ambiguousPair .ror v = (v.toNat % 32 == 0) := by
  rw [Bool.eq_iff_iff, ambiguousPair, beq_iff_eq, beq_iff_eq, and_0x1F_eq_zero_iff]

/-- `ambiguous_pair` of RRX (R92). -/
theorem ambiguousPair_rrx (v : Imm) : ambiguousPair .rrx v = (v.toNat % 32 != 0) := by
  rw [Bool.eq_iff_iff, ambiguousPair, bne_iff_ne, bne_iff_ne, ne_eq, and_0x1F_eq_zero_iff]

/-- Everything `shift_bits` can answer: the code of the type, or EncodeError under a policy that refuses (R130). -/
theorem shiftBits_cases (cfg : Config) (shift : ShiftType) (v : Imm) :
    (shiftBits cfg shift v = .error .encodeError ∧
      (shift = .none ∧ cfg.noneShiftPolicy = .encodeError ∨
        ambiguousPair shift v = true ∧ cfg.shiftPairPolicy = .reject)) ∨
    (shiftBits cfg shift v = .ok ((shiftCode shift).getD 0) ∧
      ¬(shift = .none ∧ cfg.noneShiftPolicy = .encodeError) ∧
      ¬(ambiguousPair shift v = true ∧ cfg.shiftPairPolicy = .reject)) := by
  unfold shiftBits
  cases hn : cfg.noneShiftPolicy <;> cases hp : cfg.shiftPairPolicy <;> cases ha : ambiguousPair shift v <;>
    cases shift <;> simp_all [shiftCode, ambiguousPair]

/-! ### The branch fields -/

/-- The branch fields bit by bit (R142, R143). -/
theorem getLsbD_placeBranch (f : DispFields) (j1 j2 : Bool) (n : Nat) :
    (placeBranch f j1 j2).getLsbD n = (decide (n = 26) && f.s || decide (16 ≤ n) && decide (n < 26) && f.imm10.getLsbD (n - 16)
      || decide (n = 13) && j1 || decide (n = 11) && j2 || decide (n < 11) && f.imm11.getLsbD n) := by
  by_cases hn : n < 32
  · unfold placeBranch
    interval_cases n <;> simp [-BitVec.getLsbD_eq_getElem]
  · rw [BitVec.getLsbD_of_ge _ _ (by omega), decide_eq_false (show ¬n = 26 by omega),
      decide_eq_false (show ¬n < 26 by omega), decide_eq_false (show ¬n = 13 by omega),
      decide_eq_false (show ¬n = 11 by omega), decide_eq_false (show ¬n < 11 by omega)]
    simp

theorem getLsbD_dispFields_imm10 (cfg : Config) (d : Disp) (n : Nat) :
    (dispFields cfg d).imm10.getLsbD n = (decide (n < 10) && d.getLsbD (12 + n)) := by
  rw [dispFields, BitVec.getLsbD_setWidth, BitVec.getLsbD_ushiftRight]

theorem getLsbD_dispFields_imm11 (cfg : Config) (d : Disp) (n : Nat) :
    (dispFields cfg d).imm11.getLsbD n = (decide (n < 11) && d.getLsbD (1 + n)) := by
  rw [dispFields, BitVec.getLsbD_setWidth, BitVec.getLsbD_ushiftRight]

/-- A one at its place, bit by bit. -/
@[simp] theorem getLsbD_oneAt (b : Bool) (k n : Nat) :
    (oneAt b k).getLsbD n = (decide (n < 32) && decide (n = k) && b) := getLsbD_bitAt b k n

end Sys2Proof.Machine
end

