-- ==== Sys2Proof/Laws/PerInstr.lean ====
section
/-! SUPPORT. The per-instruction families: statements about every instruction as syntax. -/

namespace Sys2Proof.Laws.WordCount

/-- The words of an instruction are as many as its format tag says (R61); nothing where it has no tag or no words. -/
def Statement (i : Instr) : Prop :=
  ∀ f, formatOf i = some f → ∀ cfg words, encode cfg i = some words → words.length = formatHalves f

theorem t16NoOperand (base : Half) : Statement (.t16NoOperand base) := by rintro _ ⟨⟩ _ _ ⟨⟩; rfl
theorem t16Imm7 (base : Half) (imm : Imm) : Statement (.t16Imm7 base imm) := by rintro _ ⟨⟩ _ _ ⟨⟩; rfl
theorem t16Imm8 (base : Half) (imm : Imm) : Statement (.t16Imm8 base imm) := by rintro _ ⟨⟩ _ _ ⟨⟩; rfl
theorem t16Imm11 (base : Half) (imm : Imm) : Statement (.t16Imm11 base imm) := by rintro _ ⟨⟩ _ _ ⟨⟩; rfl
theorem t16ImmOther (base : Half) (width : Nat) (imm : Imm) : Statement (.t16ImmOther base width imm) := by rintro _ ⟨⟩
theorem t16RegImm8 (base : Half) (rd : Reg) (imm8 : Imm) : Statement (.t16RegImm8 base rd imm8) := by rintro _ ⟨⟩ _ _ ⟨⟩; rfl
theorem t16RegImm5 (base : Half) (rd rm : Reg) (imm5 : Imm) : Statement (.t16RegImm5 base rd rm imm5) := by rintro _ ⟨⟩ _ _ ⟨⟩; rfl
theorem t16TwoLow (base : Half) (rd rm : Reg) : Statement (.t16TwoLow base rd rm) := by rintro _ ⟨⟩ _ _ ⟨⟩; rfl
theorem t16ThreeLow (base : Half) (rd rn rm : Reg) : Statement (.t16ThreeLow base rd rn rm) := by rintro _ ⟨⟩ _ _ ⟨⟩; rfl
theorem t16TwoLowImm3 (base : Half) (rd rm : Reg) (imm3 : Imm) : Statement (.t16TwoLowImm3 base rd rm imm3) := by rintro _ ⟨⟩ _ _ ⟨⟩; rfl
theorem t16OneAny (base : Half) (rm : Reg) : Statement (.t16OneAny base rm) := by rintro _ ⟨⟩ _ _ ⟨⟩; rfl
theorem t16TwoAny (base : Half) (r1 r2 : Reg) : Statement (.t16TwoAny base r1 r2) := by rintro _ ⟨⟩ _ _ ⟨⟩; rfl
theorem t32NoOperand (base : Word32) : Statement (.t32NoOperand base) := by rintro _ ⟨⟩ _ _ ⟨⟩; rfl
theorem t32OneRegImm12 (base : Word32) (rd : Reg) (imm12 : Imm) : Statement (.t32OneRegImm12 base rd imm12) := by rintro _ ⟨⟩ _ _ ⟨⟩; rfl
theorem t32TwoRegImm12 (base : Word32) (rd rn : Reg) (imm12 : Imm) : Statement (.t32TwoRegImm12 base rd rn imm12) := by rintro _ ⟨⟩ _ _ ⟨⟩; rfl
theorem t32TwoRegImm12Sf (base : Word32) (rd rn : Reg) (imm12 : Imm) (sf : Bool) : Statement (.t32TwoRegImm12Sf base rd rn imm12 sf) := by rintro _ ⟨⟩ _ _ ⟨⟩; rfl
theorem t32TwoRegImm5Sf (base : Word32) (rd rn : Reg) (imm5 : Imm) (sf : Bool) : Statement (.t32TwoRegImm5Sf base rd rn imm5 sf) := by rintro _ ⟨⟩ _ _ ⟨⟩; rfl
theorem t32TwoRegImm5Shift (base : Word32) (rd rn : Reg) (imm5 : Imm) (shift : ShiftType) : Statement (.t32TwoRegImm5Shift base rd rn imm5 shift) := by rintro _ ⟨⟩ _ _ ⟨⟩; rfl
theorem t32TwoRegImm5ShiftSf (base : Word32) (rd rn : Reg) (imm5 : Imm) (shift : ShiftType) (sf : Bool) : Statement (.t32TwoRegImm5ShiftSf base rd rn imm5 shift sf) := by rintro _ ⟨⟩ _ _ ⟨⟩; rfl
theorem t32ThreeReg (base : Word32) (rd rn rm : Reg) : Statement (.t32ThreeReg base rd rn rm) := by rintro _ ⟨⟩ _ _ ⟨⟩; rfl
theorem t32ThreeRegSf (base : Word32) (rd rn rm : Reg) (sf : Bool) : Statement (.t32ThreeRegSf base rd rn rm sf) := by rintro _ ⟨⟩ _ _ ⟨⟩; rfl
theorem t32ThreeRegImm5ShiftSf (base : Word32) (rd rn rm : Reg) (imm5 : Imm) (shift : ShiftType) (sf : Bool) : Statement (.t32ThreeRegImm5ShiftSf base rd rn rm imm5 shift sf) := by rintro _ ⟨⟩ _ _ ⟨⟩; rfl
theorem t32Branch (base : Word32) (displacement : Disp) : Statement (.t32Branch base displacement) := by rintro _ ⟨⟩ _ _ ⟨⟩; rfl
theorem t32CondBranch (base : Word32) (displacement : Disp) : Statement (.t32CondBranch base displacement) := by rintro _ ⟨⟩ _ _ ⟨⟩; rfl
theorem create (capacity : Nat) : Statement (.create capacity) := by rintro _ ⟨⟩
theorem append (opcode : Opcode) : Statement (.append opcode) := by rintro _ ⟨⟩
theorem drain : Statement .drain := by rintro _ ⟨⟩
theorem emit (packer : Packer) : Statement (.emit packer) := by rintro _ ⟨⟩
theorem movImm (rd : Reg) (imm8 : Imm) : Statement (.movImm rd imm8) := by rintro _ ⟨⟩
theorem addThreeLow (rd rn rm : Reg) : Statement (.addThreeLow rd rn rm) := by rintro _ ⟨⟩

end Sys2Proof.Laws.WordCount
end

