-- ==== Sys2Proof/Tests/Slice0.lean ====
section
/-! SUPPORT. Tests of the model on single steps, and witnesses for the hypotheses of the obligations. Every expected value
is a row of 95_test_vectors.md (V, W, B, Q, P, S ids) or an example of the rule named. -/

namespace Sys2Proof.Tests

open Sys2Proof.Machine Sys2Proof.Spec

/-! ### Small states -/

/-- The document's parameters with `SHIFT_PAIR_POLICY` = reject. -/
def rejecting : Config := { Config.document with shiftPairPolicy := .reject }

/-- The document's parameters with `NONE_SHIFT_POLICY` = zero_bits. -/
def zeroing : Config := { Config.document with noneShiftPolicy := .zeroBits }

/-- The displacement indices 24, 23, 22 (95_test_vectors.md, 4.4). -/
def lowerIndices : Config := { Config.document with dispSBit := 24, dispI1Bit := 23, dispI2Bit := 22 }

/-- The document's parameters with a cursor register of two bits. -/
def narrowCursor : Config := { Config.document with addrW := some 2 }

/-- Ports of three, eight and sixteen bits, and a capacity fixed at 3. -/
def narrowPorts : Config := { Config.document with regW := 3, immW := 8, dispW := 16, capacity := some 3 }

/-- The state at reset under other parameters. -/
def withCfg (cfg : Config) : State := { State.reset with cfg := cfg }

/-- A sequence of the capacity with the words in its first cells. -/
def sequenceOf (capacity : Nat) (words : List Half) : Sequence := ⟨Memory.writeAll [] 0 words, words.length, capacity⟩

/-- A state with that sequence. -/
def stateOf (capacity : Nat) (words : List Half) : State := { State.reset with seq := some (sequenceOf capacity words) }

/-- The outputs after one command. -/
def outputs (i : Instr) (s : State) : Option (Result × Bool) :=
  match exec i s with
  | .next t => some (t.out.result, t.out.warnShiftPair)
  | .fault _ => none
  | .refused _ => none

/-- The result and the bounded list after one command (part 5 of 95_test_vectors.md). -/
def effect (i : Instr) (s : State) : Option (Result × Option BoundedList) :=
  match exec i s with
  | .next t => some (t.out.result, listOf t)
  | .fault _ => none
  | .refused _ => none

/-! ### The 16-bit packers -/

theorem test_t16NoOperand_V1 : outputs (.t16NoOperand 0xBF00) .reset = some (.opcode (.thumb16 0xBF00), false) := by decide
theorem test_t16Imm7_V5 : outputs (.t16Imm7 0xB080 0x1FF) .reset = some (.opcode (.thumb16 0xB0FF), false) := by decide
theorem test_t16Imm7_V6 : outputs (.t16Imm7 0xB000 0x80) .reset = some (.opcode (.thumb16 0xB000), false) := by decide
theorem test_t16Imm8_V9 : outputs (.t16Imm8 0xD100 0xFFFFFFFC) .reset = some (.opcode (.thumb16 0xD1FC), false) := by decide
theorem test_t16Imm8_V10 : outputs (.t16Imm8 0xDF00 0x100) .reset = some (.opcode (.thumb16 0xDF00), false) := by decide
theorem test_t16Imm11_V13 : outputs (.t16Imm11 0xE000 0xFFFFFFFE) .reset = some (.opcode (.thumb16 0xE7FE), false) := by decide
theorem test_t16Imm11_V14 : outputs (.t16Imm11 0xE000 0x800) .reset = some (.opcode (.thumb16 0xE000), false) := by decide
theorem test_t16ImmOther_V18 : outputs (.t16ImmOther 0xB000 16 1) .reset = some (.opcode (.error .encodeError), false) := by decide
theorem test_t16ImmOther_V20 : outputs (.t16ImmOther 0xB000 3 1) .reset = some (.opcode (.error .encodeError), false) := by decide
theorem test_t16RegImm8_V27 : outputs (.t16RegImm8 0x2000 3 0x1AB) .reset = some (.opcode (.thumb16 0x23AB), false) := by decide
theorem test_t16RegImm8_V25 : outputs (.t16RegImm8 0x2000 8 1) .reset = some (.opcode (.error .registerOutOfRange), false) := by decide
theorem test_t16RegImm5_V35 : outputs (.t16RegImm5 0x1000 2 3 0x25) .reset = some (.opcode (.thumb16 0x115A), false) := by decide
theorem test_t16RegImm5_V37 : outputs (.t16RegImm5 0 0 8 1) .reset = some (.opcode (.error .registerOutOfRange), false) := by decide
theorem test_t16TwoLow_V40 : outputs (.t16TwoLow 0x4000 1 2) .reset = some (.opcode (.thumb16 0x4011), false) := by decide
theorem test_t16TwoLow_V45 : outputs (.t16TwoLow 0x4000 15 0) .reset = some (.opcode (.error .registerOutOfRange), false) := by decide
theorem test_t16ThreeLow_V48 : outputs (.t16ThreeLow 0x1800 2 1 0) .reset = some (.opcode (.thumb16 0x180A), false) := by decide
theorem test_t16ThreeLow_V55 : outputs (.t16ThreeLow 0x1800 0 0 8) .reset = some (.opcode (.error .registerOutOfRange), false) := by decide
theorem test_t16TwoLowImm3_V59 : outputs (.t16TwoLowImm3 0x1E00 3 4 5) .reset = some (.opcode (.thumb16 0x1F63), false) := by decide
theorem test_t16TwoLowImm3_V61 : outputs (.t16TwoLowImm3 0x1C00 0 9 1) .reset = some (.opcode (.error .registerOutOfRange), false) := by decide
theorem test_t16OneAny_V68 : outputs (.t16OneAny 0x4700 8) .reset = some (.opcode (.thumb16 0x4740), false) := by decide
theorem test_t16TwoAny_V70 : outputs (.t16TwoAny 0 9 3) .reset = some (.opcode (.thumb16 0x0099), false) := by decide
theorem test_t16TwoAny_V74 : outputs (.t16TwoAny 0x4400 13 7) .reset = some (.opcode (.thumb16 0x44BD), false) := by decide

/-! ### The 32-bit packers -/

theorem test_t32NoOperand_W1 : outputs (.t32NoOperand 0xF3BF8F4F) .reset = some (.opcode (.thumb32 0xF3BF 0x8F4F), false) := by decide
theorem test_t32OneRegImm12_W9 : outputs (.t32OneRegImm12 0xF04F0000 1 0x1ABC) .reset = some (.opcode (.thumb32 0xF44F 0x21BC), false) := by decide
theorem test_t32TwoRegImm12_W16 : outputs (.t32TwoRegImm12 0xF2000000 0 13 0x123) .reset = some (.opcode (.thumb32 0xF20D 0x1023), false) := by decide
theorem test_t32TwoRegImm12Sf_W22 : outputs (.t32TwoRegImm12Sf 0xF1A00000 4 5 0x700 true) .reset = some (.opcode (.thumb32 0xF1B5 0x7400), false) := by decide
theorem test_t32TwoRegImm12Sf_W21 : outputs (.t32TwoRegImm12Sf 0xF1000000 1 2 0x8FF false) .reset = some (.opcode (.thumb32 0xF502 0x01FF), false) := by decide
theorem test_t32TwoRegImm5Sf_W25 : outputs (.t32TwoRegImm5Sf 0xEA4F0000 1 2 5 true) .reset = some (.opcode (.thumb32 0xEA5F 0x1142), false) := by decide
theorem test_t32TwoRegImm5Sf_W27 : outputs (.t32TwoRegImm5Sf 0xEA4F0000 1 2 0x20 false) .reset = some (.opcode (.thumb32 0xEA4F 0x0102), false) := by decide
theorem test_t32TwoRegImm5Shift_W40 : outputs (.t32TwoRegImm5Shift 0xEA4F0000 1 2 32 .ror) .reset = some (.opcode (.thumb32 0xEA4F 0x0132), true) := by decide
theorem test_t32TwoRegImm5Shift_W38_reject : outputs (.t32TwoRegImm5Shift 0xEA4F0000 1 2 3 .rrx) (withCfg rejecting) = some (.opcode (.error .encodeError), true) := by decide
theorem test_t32TwoRegImm5ShiftSf_W42 : outputs (.t32TwoRegImm5ShiftSf 0xEA4F0000 8 9 17 .asr true) .reset = some (.opcode (.thumb32 0xEA5F 0x4869), false) := by decide
theorem test_t32TwoRegImm5ShiftSf_W65_zero : outputs (.t32TwoRegImm5ShiftSf 0xEA4F0000 8 9 17 .none true) (withCfg zeroing) = some (.opcode (.thumb32 0xEA5F 0x4849), false) := by decide
theorem test_t32ThreeReg_W46 : outputs (.t32ThreeReg 0xFB90F0F0 3 4 5) .reset = some (.opcode (.thumb32 0xFB94 0xF3F5), false) := by decide
theorem test_t32ThreeRegSf_W53 : outputs (.t32ThreeRegSf 0xFA00F000 0 1 2 true) .reset = some (.opcode (.thumb32 0xFA11 0xF002), false) := by decide
theorem test_t32ThreeRegImm5ShiftSf_W62 : outputs (.t32ThreeRegImm5ShiftSf 0 1 2 3 9 .asr false) .reset = some (.opcode (.thumb32 0x0002 0x2163), false) := by decide
theorem test_t32ThreeRegImm5ShiftSf_W64 : outputs (.t32ThreeRegImm5ShiftSf 0xEB000000 0 1 2 4 .none false) .reset = some (.opcode (.error .encodeError), false) := by decide
theorem test_t32Branch_B22 : outputs (.t32Branch 0xF0009000 0x01FFFFFE) .reset = some (.opcode (.thumb32 0xF3FF 0x97FF), false) := by decide
theorem test_t32Branch_B39 : outputs (.t32Branch 0xF0009000 0x00400000) (withCfg lowerIndices) = some (.opcode (.thumb32 0xF000 0xB000), false) := by decide
theorem test_t32CondBranch_B17 : outputs (.t32CondBranch 0xF0008000 0x00800000) .reset = some (.opcode (.thumb32 0xF000 0x8800), false) := by decide
theorem test_t32CondBranch_B31 : outputs (.t32CondBranch 0xF0408000 0xFFFFFFF8) .reset = some (.opcode (.thumb32 0xF7FF 0xAFFC), false) := by decide

/-! ### The mnemonics and the buffer -/

theorem test_movImm_S6 : outputs (.movImm 1 3) .reset = some (.opcode (.thumb16 0x2103), false) := by decide
theorem test_addThreeLow_S6 : outputs (.addThreeLow 2 1 0) .reset = some (.opcode (.thumb16 0x180A), false) := by decide
theorem test_create_Q15 : effect (.create 2) (stateOf 3 [0x2002, 0xF000, 0xB808]) = some (.created, some ⟨2, []⟩) := by decide
theorem test_append_Q6 : effect (.append (.thumb32 0xF000 0xB808)) (stateOf 3 [0x2002]) =
    some (.appended true, some ⟨3, [0x2002, 0xF000, 0xB808]⟩) := by decide
theorem test_append_Q3 : effect (.append (.thumb32 0xF000 0xB808)) (stateOf 3 [0x2002, 0x2103]) =
    some (.appended false, some ⟨3, [0x2002, 0x2103]⟩) := by decide
theorem test_drain_Q13 : effect .drain (stateOf 3 [0x2002, 0xF000, 0xB808]) =
    some (.drained [0x2002, 0xF000, 0xB808], some ⟨3, [0x2002, 0xF000, 0xB808]⟩) := by decide
theorem test_emit_Q16 : effect (.emit (.t16RegImm8 0x2000 0 2)) (stateOf 3 []) =
    some (.emitted (.thumb16 0x2002) true, some ⟨3, [0x2002]⟩) := by decide
theorem test_emit_Q18 : effect (.emit (.t32NoOperand 0xF3AF8000)) (stateOf 3 [0x2002, 0x2103]) =
    some (.emitted (.thumb32 0xF3AF 0x8000) false, some ⟨3, [0x2002, 0x2103]⟩) := by decide
theorem test_serialise_P1 : serialise .little [0x2002, 0x2103, 0x180A] = [0x02, 0x20, 0x03, 0x21, 0x0A, 0x18] := by decide
theorem test_faults_below_an_unwritten_cell : exec .drain { State.reset with seq := some ⟨[(0, 0x2002)], 2, 3⟩ } = .fault (.valuelessCell 1) := rfl

/-! ### Decoding: one written-out word for every row of R63, R64 and R84 -/

theorem test_decode_t16NoOperand : decodeWords [0b1011111100000000] = .ok (.t16NoOperand 0xBF00) := by decide
theorem test_decode_t16Imm7 : decodeAs .document .t16Imm7 [0b1011000000000100] = .ok (.t16Imm7 0xB000 4) := by decide
theorem test_decode_t16Imm8 : decodeAs .document .t16Imm8 [0b1101000011111110] = .ok (.t16Imm8 0xD000 0xFE) := by decide
theorem test_decode_t16Imm11 : decodeAs .document .t16Imm11 [0b1110011111111110] = .ok (.t16Imm11 0xE000 0x7FE) := by decide
theorem test_decode_t16RegImm8 : decodeAs .document .t16RegImm8 [0b0010110100010000] = .ok (.t16RegImm8 0x2800 5 0x10) := by decide
theorem test_decode_t16RegImm5 : decodeAs .document .t16RegImm5 [0b0110100100001000] = .ok (.t16RegImm5 0x6800 0 1 4) := by decide
theorem test_decode_t16TwoLow : decodeAs .document .t16TwoLow [0b0100000000010001] = .ok (.t16TwoLow 0x4000 1 2) := by decide
theorem test_decode_t16ThreeLow : decodeAs .document .t16ThreeLow [0b0001100000001010] = .ok (.t16ThreeLow 0x1800 2 1 0) := by decide
theorem test_decode_t16TwoLowImm3 : decodeAs .document .t16TwoLowImm3 [0b0001111101100011] = .ok (.t16TwoLowImm3 0x1E00 3 4 5) := by decide
theorem test_decode_t16OneAny : decodeAs .document .t16OneAny [0b0100011101110000] = .ok (.t16OneAny 0x4700 14) := by decide
theorem test_decode_t16TwoAny : decodeAs .document .t16TwoAny [0b0100010010111101] = .ok (.t16TwoAny 0x4400 13 7) := by decide
theorem test_decode_t32NoOperand : decodeWords [0b1111001110111111, 0b1000111101001111] = .ok (.t32NoOperand 0xF3BF8F4F) := by decide
theorem test_decode_t32OneRegImm12 : decodeAs .document .t32OneRegImm12 [0b1111010001001111, 0b0000001111111111] = .ok (.t32OneRegImm12 0xF04F0000 3 0x8FF) := by decide
theorem test_decode_t32TwoRegImm12 : decodeAs .document .t32TwoRegImm12 [0b1111001000001101, 0b0001000000100011] = .ok (.t32TwoRegImm12 0xF2000000 0 13 0x123) := by decide
theorem test_decode_t32TwoRegImm12Sf : decodeAs .document .t32TwoRegImm12Sf [0b1111010100010010, 0b0000000111111111] = .ok (.t32TwoRegImm12Sf 0xF1000000 1 2 0x8FF true) := by decide
theorem test_decode_t32TwoRegImm5Sf : decodeAs .document .t32TwoRegImm5Sf [0b1110101001011111, 0b0001000101000010] = .ok (.t32TwoRegImm5Sf 0xEA4F0000 1 2 5 true) := by decide
theorem test_decode_t32TwoRegImm5Shift : decodeAs .document .t32TwoRegImm5Shift [0b1110101001001111, 0b0001000101010010] = .ok (.t32TwoRegImm5Shift 0xEA4F0000 1 2 5 .lsr) := by decide
theorem test_decode_t32TwoRegImm5ShiftSf : decodeAs .document .t32TwoRegImm5ShiftSf [0b1110101001011111, 0b0100100001101001] = .ok (.t32TwoRegImm5ShiftSf 0xEA4F0000 8 9 17 .asr true) := by decide
theorem test_decode_t32ThreeReg : decodeAs .document .t32ThreeReg [0b1111101100000011, 0b1111010000000000] = .ok (.t32ThreeReg 0xFB00F000 4 3 0) := by decide
theorem test_decode_t32ThreeRegSf : decodeAs .document .t32ThreeRegSf [0b1111101000010001, 0b1111000000000010] = .ok (.t32ThreeRegSf 0xFA00F000 0 1 2 true) := by decide
theorem test_decode_t32ThreeRegImm5ShiftSf : decodeAs .document .t32ThreeRegImm5ShiftSf [0b1110101000011011, 0b0000110000111010] = .ok (.t32ThreeRegImm5ShiftSf 0xEA000000 12 11 10 0 .rrx true) := by decide
theorem test_decode_t32Branch : decodeAs .document .t32Branch [0b0000000000000000, 0b0010100000001000] = .ok (.t32Branch 0 16) := by decide
theorem test_decode_t32CondBranch : decodeAs .document .t32CondBranch [0b0000000000000000, 0b0000000000001000] = .ok (.t32CondBranch 0 16) := by decide
theorem test_decode_movImm : decodeWords [0b0010000100000011] = .ok (.movImm 1 3) := by decide
theorem test_decode_addThreeLow : decodeWords [0b0001100000001010] = .ok (.addThreeLow 2 1 0) := by decide

/-- B3's branch word read by the other form's formula gives 0x1800010 (95_test_vectors.md, 4.1). -/
theorem test_forms_are_not_mixed : decodeCond .document 0x00002808 = 0x1800010 := by decide
/-- B22: what reassembly gives where bit 22 is lost. -/
theorem test_decodeBranch_B22 : decodeBranch .document (0x03FF07FF) = 29360126 := by decide

theorem test_decode_rejects_no_byte : decode [] = .error .empty := by decide
theorem test_decode_rejects_odd_bytes : decode [0x02, 0x20, 0x03] = .error .oddByteCount := by decide
theorem test_decode_rejects_three_halfwords : decode [0, 0, 0, 0, 0, 0] = .error .tooLong := by decide
theorem test_decodeAs_rejects_wrong_length : decodeAs .document .t32ThreeReg [0xFB03] = .error .wrongLength := by decide
theorem test_decodeTableWord_rejects_excess_bits : decodeTableWord 16 0x10000 = none := by decide

/-! ### WellFormed: an ill-formed term for each check -/

theorem test_illFormed_base16 : (Instr.t16RegImm8 0x2001 0 2).wellFormed .document = false := by decide
theorem test_illFormed_base32 : (Instr.t32CondBranch 0xF0408000 4).wellFormed .document = false := by decide
theorem test_illFormed_highRegister : (Instr.t16TwoLow 0x4000 0 8).wellFormed .document = false := by decide
theorem test_illFormed_wideImmediate : (Instr.t16Imm7 0xB000 0x80).wellFormed .document = false := by decide
theorem test_illFormed_wideImm12 : (Instr.t32OneRegImm12 0xF04F0000 1 0x1000).wellFormed .document = false := by decide
theorem test_illFormed_noneShift : (Instr.t32TwoRegImm5Shift 0xEA4F0000 1 2 5 .none).wellFormed .document = false := by decide
theorem test_illFormed_rorByZero : (Instr.t32TwoRegImm5Shift 0xEA4F0000 1 2 0 .ror).wellFormed .document = false := by decide
theorem test_illFormed_rrxByThree : (Instr.t32TwoRegImm5Shift 0xEA4F0000 1 2 3 .rrx).wellFormed .document = false := by decide
theorem test_illFormed_oddDisplacement : (Instr.t32Branch 0xF0009000 17).wellFormed .document = false := by decide
theorem test_illFormed_lostBit22 : (Instr.t32Branch 0xF0009000 0x00400000).wellFormed .document = false := by decide
theorem test_illFormed_width : (Instr.t16ImmOther 0xB000 9 1).wellFormed .document = false := by decide
theorem test_illFormed_capacity : (Instr.create 4).wellFormed narrowCursor = false := by decide
theorem test_illFormed_otherCapacity : (Instr.create 4).wellFormed narrowPorts = false := by decide
theorem test_wellFormed_capacity : (Instr.create 3).wellFormed narrowPorts = true := by decide
theorem test_ports_register : (Instr.t16OneAny 0x4700 8).fitsPorts narrowPorts = false ∧
    (Instr.t16OneAny 0x4700 7).fitsPorts narrowPorts = true := by decide
theorem test_ports_immediate : (Instr.emit (.t16Imm 0xB000 7 256)).fitsPorts narrowPorts = false ∧
    (Instr.emit (.t16Imm 0xB000 7 255)).fitsPorts narrowPorts = true := by decide
theorem test_ports_displacement : (Instr.t32Branch 0 0x8000).fitsPorts narrowPorts = false ∧
    (Instr.t32Branch 0 0xFFFF8000).fitsPorts narrowPorts = true := by decide
theorem test_illFormed_emit : (Instr.emit (.t16TwoLow 0x4000 9 0)).wellFormed .document = false := by decide

/-! ### Witnesses: every hypothesis of the obligations can be met, each clause at the ends of its range -/

theorem witness_t16Imm_widths : 7 ∈ [7, 8, 11] ∧ 8 ∈ [7, 8, 11] ∧ 11 ∈ [7, 8, 11] ∧ 0 ∉ [7, 8, 11] ∧ 6 ∉ [7, 8, 11] ∧
    9 ∉ [7, 8, 11] ∧ 10 ∉ [7, 8, 11] ∧ 12 ∉ [7, 8, 11] := by decide

/-- For the low-register formats, the mnemonics and R110: the last low register and the first high one in each place. -/
theorem witness_lowRegisters : (7 : Reg).toNat ≤ 7 ∧ 7 < (8 : Reg).toNat ∧
    ((7 : Reg).toNat ≤ 7 ∧ (7 : Reg).toNat ≤ 7) ∧ (7 < (8 : Reg).toNat ∨ 7 < (7 : Reg).toNat) ∧
    (7 < (7 : Reg).toNat ∨ 7 < (8 : Reg).toNat) ∧ ((7 : Reg).toNat ≤ 7 ∧ (0 : Reg).toNat ≤ 7 ∧ (7 : Reg).toNat ≤ 7) ∧
    (7 < (7 : Reg).toNat ∨ 7 < (7 : Reg).toNat ∨ 7 < (8 : Reg).toNat) := by decide

theorem witness_shiftRefused_none : shiftRefused State.reset.cfg .none 5 := by unfold shiftRefused; decide
theorem witness_shiftRefused_ror : shiftRefused (withCfg rejecting).cfg .ror 32 := by unfold shiftRefused; decide
theorem witness_shiftRefused_rrx : shiftRefused (withCfg rejecting).cfg .rrx 1 := by unfold shiftRefused; decide
theorem witness_shiftTaken_ror : ¬shiftRefused State.reset.cfg .ror 0 := by unfold shiftRefused; decide
theorem witness_shiftTaken_rejecting : ¬shiftRefused (withCfg rejecting).cfg .ror 31 ∧
    ¬shiftRefused (withCfg rejecting).cfg .rrx 32 := by unfold shiftRefused; decide
theorem witness_shiftTaken_none : ¬shiftRefused (withCfg zeroing).cfg .none 5 := by unfold shiftRefused; decide

/-- Both signs (B6, B8) and a base that is zero at the J bits. -/
theorem witness_branchForms : (0xFFFFFFF0 : Disp).getLsbD State.reset.cfg.dispSBit.val = true ∧
    (16 : Disp).getLsbD State.reset.cfg.dispSBit.val = false ∧
    (0xF0008000 : Word32).getLsbD 13 = false ∧ (0xF0008000 : Word32).getLsbD 11 = false := by decide

theorem witness_roundTrip_indices : State.reset.cfg.dispSBit ≠ 0 ∧ State.reset.cfg.dispI1Bit ≠ 0 ∧
    State.reset.cfg.dispI2Bit ≠ 0 ∧ representable State.reset.cfg 4194302 = true ∧
    representable State.reset.cfg 4194304 = false := by decide

/-- The two ends of the safe interval (B14, B15). -/
theorem witness_safeInterval :
    (State.reset.cfg.dispSBit = 25 ∧ State.reset.cfg.dispI1Bit = 24 ∧ State.reset.cfg.dispI2Bit = 23) ∧
    ((withCfg lowerIndices).cfg.dispSBit = 24 ∧ (withCfg lowerIndices).cfg.dispI1Bit = 23 ∧
      (withCfg lowerIndices).cfg.dispI2Bit = 22) ∧
    ((0xFFC00000 : Disp).getLsbD 0 = false ∧ -4194304 ≤ (0xFFC00000 : Disp).toInt ∧ (0xFFC00000 : Disp).toInt ≤ 4194302) ∧
    ((0x003FFFFE : Disp).getLsbD 0 = false ∧ -4194304 ≤ (0x003FFFFE : Disp).toInt ∧ (0x003FFFFE : Disp).toInt ≤ 4194302) := by
  decide

/-- For the statements over every packer command; also two states that differ in all but the parameters. -/
theorem witness_asPacker : (Instr.movImm 7 255).asPacker = some (.t16RegImm8 0x2000 7 255) ∧
    State.reset.cfg = (stateOf 3 [0x2002]).cfg ∧ tableError State.reset.cfg (.movImm 8 255) = some .registerOutOfRange ∧
    tableError (withCfg rejecting).cfg (.t32TwoRegImm5Shift 0 0 0 0 .ror) = some .encodeError := by decide

theorem witness_preserve : State.reset.cfg.shiftPairPolicy = .preserve := by decide

/-- A well-formed command of every format, most with every field at its largest value. -/
def largest : List Instr :=
  [.t16NoOperand 0xFFFF, .t16Imm7 0xB080 0x7F, .t16Imm8 0xDF00 0xFF, .t16Imm11 0xE000 0x7FF, .t16RegImm8 0x2000 7 0xFF,
    .t16RegImm5 0x0800 7 7 0x1F, .t16TwoLow 0x43C0 7 7, .t16ThreeLow 0x1A00 7 7 7, .t16TwoLowImm3 0x1C00 7 7 7,
    .t16OneAny 0x4700 15, .t16TwoAny 0x4600 15 15, .t32NoOperand 0xFFFFFFFF] ++
  [.t32OneRegImm12 0xF04F0000 15 0xFFF, .t32TwoRegImm12 0xF2000000 15 15 0xFFF, .t32TwoRegImm12Sf 0 15 15 0xFFF true,
    .t32TwoRegImm5Sf 0 15 15 0x1F true, .t32TwoRegImm5Shift 0xEA4F0000 15 15 0x1F .ror,
    .t32TwoRegImm5ShiftSf 0 15 15 0 .rrx true, .t32ThreeReg 0 15 15 15, .t32ThreeRegSf 0 15 15 15 true,
    .t32ThreeRegImm5ShiftSf 0 15 15 15 31 .ror true, .t32Branch 0xF0009000 0x003FFFFE, .t32CondBranch 0xF0008000 0xFFC00000]

theorem witness_wellFormed_formats : (largest.all fun i => i.wellFormed .document && (formatOf i).isSome) = true := by decide
theorem witness_wellFormed_otherIndices : (Instr.t32Branch 0 0x00400000).wellFormed lowerIndices = true ∧
    formatOf (.t32Branch 0 0x00400000) = some .t32Branch := by decide
theorem witness_wellFormed_mnemonics : (Instr.movImm 7 0xFF).wellFormed .document = true ∧
    (Instr.addThreeLow 7 7 7).wellFormed .document = true := by decide
theorem witness_decodeWords : decodeWords [0x27FF] = .ok (.movImm 7 0xFF) ∧ decodeWords [0x2800] = .ok (.t16NoOperand 0x2800) ∧
    decodeWords [0x1FFF, 0xFFFF] = .ok (.t32NoOperand 0x1FFFFFFF) := by decide
theorem witness_serialise : ([0x2002, 0x2103, 0x180A] : List Half)[0]? = some 0x2002 ∧
    ([0x2002, 0x2103, 0x180A] : List Half)[2]? = some 0x180A := by decide

/-- One cell free: a `Thumb16` fits exactly, a `Thumb32` is one cell too long. -/
theorem witness_append_oneFree : (stateOf 3 [1, 2]).seq = some (sequenceOf 3 [1, 2]) ∧
    (sequenceOf 3 [1, 2]).cursor + 1 = (sequenceOf 3 [1, 2]).capacity ∧
    (sequenceOf 3 [1, 2]).capacity < (sequenceOf 3 [1, 2]).cursor + 2 := by decide
/-- Two cells free: a `Thumb32` fits exactly. No cell free: a `Thumb16` does not. -/
theorem witness_append_twoFree : (stateOf 3 [1]).seq = some (sequenceOf 3 [1]) ∧
    (sequenceOf 3 [1]).cursor + 2 = (sequenceOf 3 [1]).capacity ∧
    (sequenceOf 1 [1]).capacity < (sequenceOf 1 [1]).cursor + 1 := by decide
theorem witness_tinyBuffers : (stateOf 0 []).seq = some (sequenceOf 0 []) ∧ (sequenceOf 0 []).capacity ≤ 1 ∧
    (stateOf 1 []).seq = some (sequenceOf 1 []) ∧ (sequenceOf 1 []).capacity ≤ 1 := by decide
theorem witness_invariant : (sequenceOf 3 [0x2002, 0xF000, 0xB808]).Inv ∧ (sequenceOf 0 []).Inv ∧
    (stateOf 3 [0x2002, 0xF000, 0xB808]).Inv := by decide
theorem witness_emit : (stateOf 3 [0x2002]).seq = some (sequenceOf 3 [0x2002]) ∧
    (Instr.addThreeLow 2 1 0).asPacker = some (.t16ThreeLow 0x1800 2 1 0) := by decide
theorem witness_refused : needsSequence .drain = true ∧ State.reset.seq = none ∧
    exec (.emit (.t16NoOperand 0)) State.reset = .refused .noSequence ∧
    exec (.append (.thumb16 0)) State.reset = .refused .noSequence := ⟨rfl, rfl, rfl, rfl⟩
theorem witness_drainGrows : (stateOf 3 [1]).seq = some (sequenceOf 3 [1]) ∧ (sequenceOf 3 [1]).Inv ∧
    wordsOf (.thumb32 2 3) = some [2, 3] ∧ (sequenceOf 3 [1]).cursor + [2, 3].length ≤ (sequenceOf 3 [1]).capacity := by decide
theorem witness_drainAnswers : exec .drain (stateOf 3 [1]) = .next ((stateOf 3 [1]).answer (.drained [1]) false) := rfl

/-- The state with a command issued. -/
def issued (i : Instr) (s : State) : State := { s with port := [i] }

/-- A step that appends, from a state with the invariant. -/
theorem witness_stepKeeps : (issued (.append (.thumb16 2)) (stateOf 3 [1])).Inv ∧
    step (issued (.append (.thumb16 2)) (stateOf 3 [1])) = .next ((stateOf 3 [1, 2]).answer (.appended true) false) :=
  ⟨by decide, rfl⟩
theorem witness_stepRefused : (issued .drain State.reset).Inv ∧ step (issued .drain State.reset) = .refused .noSequence :=
  ⟨by decide, rfl⟩
/-- An append that changes the sequence and is no CREATE. -/
theorem witness_appendOnly : (stateOf 3 [1]).seq = some (sequenceOf 3 [1]) ∧ (∀ c, Instr.append (.thumb32 2 3) ≠ .create c) ∧
    exec (.append (.thumb32 2 3)) (stateOf 3 [1]) = .next ((stateOf 3 [1, 2, 3]).answer (.appended true) false) ∧
    sequenceOf 3 [1, 2, 3] ≠ sequenceOf 3 [1] := ⟨by decide, fun _ => nofun, rfl, by decide⟩
theorem witness_otherCommand : (∀ c, Instr.drain ≠ .create c) ∧ (∀ o, Instr.drain ≠ .append o) ∧ ∀ p, Instr.drain ≠ .emit p :=
  ⟨fun _ => nofun, fun _ => nofun, fun _ => nofun⟩
/-- The three kinds of failure report: a packer's error, a refused APPEND, an EMIT whose packer succeeded (Q18). -/
theorem witness_failures :
    exec (.t16TwoLow 0x4000 0 8) State.reset = .next (State.reset.answer (.opcode (.error .registerOutOfRange)) false) ∧
    exec (.append (.thumb16 1)) (stateOf 0 []) = .next ((stateOf 0 []).answer (.appended false) false) ∧
    exec (.emit (.t32NoOperand 0xF3AF8000)) (stateOf 1 []) =
      .next ((stateOf 1 []).answer (.emitted (.thumb32 0xF3AF 0x8000) false) false) ∧
    reportsFailure (.opcode (.error .registerOutOfRange)) = true ∧ reportsFailure (.appended false) = true ∧
    reportsFailure (.emitted (.thumb32 0xF3AF 0x8000) false) = true := ⟨rfl, rfl, rfl, rfl, rfl, rfl⟩
/-- P2's ending: one opcode too long, one that fits, a drain; and the bounded list they leave. -/
theorem witness_refinement :
    let s := { stateOf 2 [1] with port := [.emit (.t32Branch 0xF0009000 0xFFFFFFF2), .emit (.t16Imm 0xE000 11 0x7F9), .drain] }
    s.Inv ∧ s.seq.isSome = true ∧ s.port.foldl (listStep s.cfg) (listOf s) = some ⟨2, [1, 0xE7F9]⟩ := by decide
theorem witness_portWidths : State.reset.cfg.regW = 4 ∧ State.reset.cfg.immW = 32 ∧ State.reset.cfg.dispW = 32 ∧
    (Instr.t32Branch 0 0x80000000).fitsPorts State.reset.cfg = true := by decide
theorem witness_port : (issued .drain State.reset).port = .drain :: [] ∧ State.reset.port = [] := by decide
theorem witness_tableWord : decodeTableWord 16 0x2103 = some (.movImm 1 3) ∧
    decodeTableWord 32 0xF3BF8F4F = some (.t32NoOperand 0xF3BF8F4F) ∧ decodeTableWord 16 0 = some (.t16NoOperand 0) := by decide
theorem witness_tableWord_runs : step (State.reset.withFetchWord 16 0x2103) = exec (.movImm 1 3) State.reset := rfl

end Sys2Proof.Tests
end

/-! PROOFS. The scope of the block (00_scope.md): what a step is, that it never faults under the invariant, the values at
reset, and what can be put on the operand ports. -/

namespace Sys2Proof.Machine

/-! ### Which commands answer, and which are refused -/

/-- The commands that need a sequence are the three buffer commands that name one (R28). -/
theorem needsSequence_iff (i : Instr) :
    needsSequence i = true ↔ (∃ o, i = .append o) ∨ i = .drain ∨ ∃ p, i = .emit p := by
  cases i <;> simp [needsSequence]

/-- Before the first CREATE a command that needs a sequence is refused, whatever its operands (R28). -/
theorem exec_refused {i : Instr} {s : State} (hq : s.seq = none) (hi : needsSequence i = true) :
    exec i s = .refused .noSequence := by
  rcases (needsSequence_iff i).1 hi with ⟨o, rfl⟩ | rfl | ⟨p, rfl⟩
  · rw [exec_append, appendAndReport_refused hq]
  · exact exec_drain_refused hq
  · rw [exec_emit, appendAndReport_refused hq]

/-- A command that needs no sequence answers in every state: it is a packer command or CREATE (R26, R150). -/
theorem exec_next_of_needs_none {i : Instr} (hi : needsSequence i = false) (s : State) : ∃ t, exec i s = .next t := by
  cases hp : i.asPacker with
  | some p => exact ⟨_, exec_packer hp s⟩
  | none =>
    rcases buffer_command hp with ⟨c, rfl⟩ | ⟨o, rfl⟩ | rfl | ⟨p, rfl⟩
    · exact ⟨_, exec_create c s⟩
    all_goals cases hi

/-- A command that needs a sequence answers where there is one with the invariant (R152, R155, R156). -/
theorem exec_next_of_sequence {i : Instr} {s : State} {q : Sequence} (hi : needsSequence i = true)
    (hq : s.seq = some q) (hinv : q.Inv) : ∃ t, exec i s = .next t := by
  rcases (needsSequence_iff i).1 hi with ⟨o, rfl⟩ | rfl | ⟨p, rfl⟩
  · obtain ⟨q', ok, -, h⟩ := appendAndReport_next hq o .appended false
    exact ⟨_, h⟩
  · exact ⟨_, exec_drain hq hinv⟩
  · obtain ⟨q', ok, -, h⟩ := appendAndReport_next hq (pack s.cfg p) (.emitted (pack s.cfg p)) (warnShiftPair p)
    exact ⟨_, h⟩

/-- Under the invariant a command answers, or it needs a sequence, there is none, and it is refused (R12, R28). -/
theorem exec_next_or_refused {s : State} (hinv : s.Inv) (i : Instr) :
    (∃ t, exec i s = .next t) ∨ (exec i s = .refused .noSequence ∧ s.seq = none ∧ needsSequence i = true) := by
  cases hi : needsSequence i with
  | false => exact .inl (exec_next_of_needs_none hi s)
  | true =>
    cases hq : s.seq with
    | none => exact .inr ⟨exec_refused hq hi, rfl, rfl⟩
    | some q => exact .inl (exec_next_of_sequence hi hq (hinv q hq))

/-! ### Commands put in place -/

/-- A step performs the command issued at the front of the port, in the state it was issued in (R10). -/
@[simp] theorem step_issueFirst (i : Instr) (s : State) : step (issueFirst i s) = exec i s := by
  rw [step, fetch_issueFirst]

/-- Placing a table word that decodes issues its instruction (log 11). -/
theorem State.withFetchWord_of_decode {nbits w : Nat} {i : Instr} (h : decodeTableWord nbits w = some i) (s : State) :
    s.withFetchWord nbits w = issueFirst i s := by
  rw [State.withFetchWord, h]

/-! ### The operand ports -/

/-- A command that is a packer command fits the ports as that packer command does (R12). -/
theorem fitsPorts_of_asPacker {i : Instr} {p : Packer} (h : i.asPacker = some p) (cfg : Config) :
    i.fitsPorts cfg = p.fitsPorts cfg := by
  cases i <;> cases h <;> rfl

/-- At the widths of R4 every command can be put on the ports (R12). -/
theorem fitsPorts_of_widths {cfg : Config} (hr : cfg.regW = 4) (hi : cfg.immW = 32) (hd : cfg.dispW = 32) (i : Instr) :
    i.fitsPorts cfg = true := by
  cases hp : i.asPacker with
  | some p => rw [fitsPorts_of_asPacker hp, Packer.fitsPorts_of_widths hr hi hd]
  | none =>
    rcases buffer_command hp with ⟨c, rfl⟩ | ⟨o, rfl⟩ | rfl | ⟨p, rfl⟩
    · rfl
    · rfl
    · rfl
    · exact Packer.fitsPorts_of_widths hr hi hd p

/-- A packer command whose one operand is a register fits the ports where the register is within `REG_W` (R4). -/
theorem Packer.fitsPorts_iff_register {p : Packer} {r : Reg} (hr : p.registers = [r]) (hi : p.immediates = [])
    (hd : p.displacements = []) (cfg : Config) : p.fitsPorts cfg = true ↔ r.toNat < 2 ^ cfg.regW := by
  simp [Packer.fitsPorts, hr, hi, hd]

/-- A packer command whose one operand is an immediate fits the ports where the immediate is within `IMM_W` (R4). -/
theorem Packer.fitsPorts_iff_immediate {p : Packer} {v : Imm} (hr : p.registers = []) (hi : p.immediates = [v])
    (hd : p.displacements = []) (cfg : Config) : p.fitsPorts cfg = true ↔ v.toNat < 2 ^ cfg.immW := by
  simp [Packer.fitsPorts, hr, hi, hd]

/-- A packer command whose one operand is a displacement fits the ports where the displacement is in the two's-complement
range of `DISP_W` bits (R4, R6). -/
theorem Packer.fitsPorts_iff_displacement {p : Packer} {d : Disp} (hr : p.registers = []) (hi : p.immediates = [])
    (hd : p.displacements = [d]) (cfg : Config) :
    p.fitsPorts cfg = true ↔ -2 ^ cfg.dispW ≤ 2 * d.toInt ∧ 2 * d.toInt < 2 ^ cfg.dispW := by
  simp [Packer.fitsPorts, hr, hi, hd]

end Sys2Proof.Machine

namespace Sys2Proof.Proofs

open Sys2Proof.Machine

/-- Settles O47: an idle step answers, and a step that performs a command inherits the command's dichotomy, since taking
the command off the port leaves the sequence as it is. -/
theorem stepNeverFaultsUnderTheInvariant : Obligations.StepNeverFaultsUnderTheInvariant := by
  intro s hinv
  rcases step_cases s with ⟨-, hstep⟩ | ⟨i, rest, hport, hstep⟩
  · exact .inl ⟨_, hstep⟩
  · have hinv' : State.Inv { s with port := rest } := hinv
    rw [hstep]
    exact (exec_next_or_refused hinv' i).imp_right fun ⟨href, hseq, hneeds⟩ => ⟨href, hseq, i, rest, hport, hneeds⟩

/-- Settles O53: each part is a field of `State.reset` or of `Config.document` as it is written there. -/
theorem resetIsBeforeTheFirstCreate : Obligations.ResetIsBeforeTheFirstCreate := by
  simp [Obligations.ResetIsBeforeTheFirstCreate, State.reset, Config.document]

/-- Settles O54: `fetch` takes the oldest command off the port, or finds none. -/
theorem stepPerformsTheOldestCommand : Obligations.StepPerformsTheOldestCommand := by
  intro s
  constructor
  · intro i rest hport
    rw [step, fetch_cons hport]
  · intro hport
    rw [step, fetch_nil hport, idle, State.answer]

/-- Settles O55: a word that decodes is issued at the front of the port, and the step performs what stands there. -/
theorem stepRunsTheDecodedInstruction : Obligations.StepRunsTheDecodedInstruction := by
  intro s nbits w i hdecode
  rw [State.withFetchWord_of_decode hdecode, step_issueFirst]

/-- Settles O56: no operand type is wider than its port at the widths of R4, and a command with one operand fits where
that operand does. -/
theorem commandsFitTheirPorts : Obligations.CommandsFitTheirPorts := by
  refine ⟨fun cfg i hr hi hd => fitsPorts_of_widths hr hi hd i, fun cfg base16 base32 r width v d => ⟨?_, ?_, ?_⟩⟩
  · rw [fitsPorts_of_asPacker rfl]
    exact Packer.fitsPorts_iff_register rfl rfl rfl cfg
  · exact Packer.fitsPorts_iff_immediate (p := .t16Imm base16 width v) rfl rfl rfl cfg
  · rw [fitsPorts_of_asPacker rfl]
    exact Packer.fitsPorts_iff_displacement rfl rfl rfl cfg

end Sys2Proof.Proofs

/-! PROOFS. The state of the block (10_state.md): what each command leaves unchanged, what it does not read, when it is
refused, the invariant of the sequence, and the buffer as a bounded list. -/

namespace Sys2Proof.Machine

open Sys2Proof.Spec

/-! ### What a command reads -/

/-- A packer command answers the packed opcode and its sideband, and changes the outputs alone (R26). -/
theorem answers_pack {i : Instr} {p : Packer} (h : i.asPacker = some p) (s : State) :
    answers i s (.opcode (pack s.cfg p)) (warnShiftPair p) :=
  exec_packer h s

/-- APPEND does not read the outputs: it overwrites them wherever it answers (R25). -/
theorem appendAndReport_out (o : Opcode) (report : Bool → Result) (w : Bool) (s : State) (out : Response) :
    appendAndReport o report w { s with out := out } = appendAndReport o report w s := rfl

/-- No command reads the outputs of an earlier one (R25, R176). -/
theorem exec_out (i : Instr) (s : State) (out : Response) : exec i { s with out := out } = exec i s := by
  cases hp : i.asPacker with
  | some p =>
    rw [exec_packer hp, exec_packer hp]
    rfl
  | none =>
    rcases buffer_command hp with ⟨c, rfl⟩ | ⟨o, rfl⟩ | rfl | ⟨p, rfl⟩
    · rfl
    · exact appendAndReport_out ..
    · rfl
    · exact appendAndReport_out ..

/-! ### Where a command is refused -/

/-- Where a sequence exists no command is refused, with or without the invariant (R28). -/
theorem exec_ne_refused_of_sequence {s : State} {q : Sequence} (hq : s.seq = some q) (i : Instr) (r : Refusal) :
    exec i s ≠ .refused r := by
  intro href
  cases hneeds : needsSequence i with
  | false =>
    obtain ⟨t, ht⟩ := exec_next_of_needs_none hneeds s
    cases href.symm.trans ht
  | true =>
    rcases (needsSequence_iff i).1 hneeds with ⟨o, rfl⟩ | rfl | ⟨p, rfl⟩
    · obtain ⟨_, _, -, ht⟩ := appendAndReport_next hq o .appended false
      cases href.symm.trans ht
    · change execDrain s = _ at href
      rw [execDrain, onSequence, hq] at href
      cases hd : q.drain <;> simp [hd] at href
    · obtain ⟨_, _, -, ht⟩ := appendAndReport_next hq (pack s.cfg p) (.emitted (pack s.cfg p)) (warnShiftPair p)
      cases href.symm.trans ht

/-- Every refusal is that of a command that needs a sequence, before there is one (R28, U16). -/
theorem exec_refused_inv {i : Instr} {s : State} {r : Refusal} (h : exec i s = .refused r) :
    r = .noSequence ∧ needsSequence i = true ∧ s.seq = none := by
  cases hq : s.seq with
  | some q => exact absurd h (exec_ne_refused_of_sequence hq i r)
  | none =>
    cases hneeds : needsSequence i with
    | false =>
      obtain ⟨t, ht⟩ := exec_next_of_needs_none hneeds s
      cases h.symm.trans ht
    | true =>
      cases h.symm.trans (exec_refused hq hneeds)
      exact ⟨rfl, rfl, rfl⟩

/-! ### What a command leaves unchanged -/

/-- A state that is another with its own outputs agrees with it in every other field. -/
theorem State.fields_of_eq_out {s t : State} (h : t = { s with out := t.out }) :
    t.seq = s.seq ∧ t.cfg = s.cfg ∧ t.port = s.port := by
  rw [h]
  exact ⟨rfl, rfl, rfl⟩

/-- No command writes the parameters or the commands to come (R26, R29). -/
theorem exec_frame {i : Instr} {s t : State} (h : exec i s = .next t) : t.cfg = s.cfg ∧ t.port = s.port := by
  rcases exec_cases h with ht | ⟨c, -, rfl⟩ | ⟨q, ws, -, -, ht, -⟩
  · exact (State.fields_of_eq_out ht).2
  · exact ⟨rfl, rfl⟩
  · exact (State.fields_of_eq_out ht).2

/-- Everything a command that answers can do to the sequence (R26, R157): nothing; CREATE makes a new one; APPEND and
EMIT add words that fit. -/
theorem exec_seq_cases {i : Instr} {s t : State} (h : exec i s = .next t) :
    t.seq = s.seq ∨ (∃ c, i = .create c ∧ t.seq = some (Sequence.create c)) ∨
    ∃ q ws, s.seq = some q ∧ q.cursor + ws.length ≤ q.capacity ∧ t.seq = some (q.appended ws) ∧
      ((∃ o, i = .append o) ∨ ∃ p, i = .emit p) := by
  rcases exec_cases h with ht | ⟨c, hi, rfl⟩ | ⟨q, ws, hq, hroom, ht, hi⟩
  · exact .inl (State.fields_of_eq_out ht).1
  · exact .inr (.inl ⟨c, hi, rfl⟩)
  · have hi' : (∃ o, i = .append o) ∨ ∃ p, i = .emit p :=
      hi.imp (fun ⟨o, ho, _⟩ => ⟨o, ho⟩) fun ⟨p, hp, _⟩ => ⟨p, hp⟩
    exact .inr (.inr ⟨q, ws, hq, hroom, (State.fields_of_eq_out ht).1, hi'⟩)

/-- A command that is none of CREATE, APPEND and EMIT leaves the sequence as it is (R26, R157). -/
theorem exec_seq_of_no_writer {i : Instr} {s t : State} (h : exec i s = .next t) (hc : ∀ c, i ≠ .create c)
    (ha : ∀ o, i ≠ .append o) (he : ∀ p, i ≠ .emit p) : t.seq = s.seq := by
  rcases exec_seq_cases h with hseq | ⟨c, hi, -⟩ | ⟨-, -, -, -, -, ⟨o, hi⟩ | ⟨p, hi⟩⟩
  · exact hseq
  · exact absurd hi (hc c)
  · exact absurd hi (ha o)
  · exact absurd hi (he p)

/-- A sequence once created is there after every command (R27, R28). -/
theorem exec_seq_isSome {i : Instr} {s t : State} (h : exec i s = .next t) (hs : s.seq.isSome = true) :
    t.seq.isSome = true := by
  rcases exec_seq_cases h with hseq | ⟨c, -, hseq⟩ | ⟨q, ws, -, -, hseq, -⟩
  · rw [hseq, hs]
  · rw [hseq, Option.isSome_some]
  · rw [hseq, Option.isSome_some]

/-! ### The invariant -/

/-- The invariant of a state speaks of its sequence alone. -/
theorem State.Inv.of_seq_eq {s t : State} (hinv : s.Inv) (h : t.seq = s.seq) : t.Inv :=
  fun q hq => hinv q (h ▸ hq)

/-- A state whose sequence has the invariant has it. -/
theorem State.inv_of_seq {s : State} {q : Sequence} (hq : s.seq = some q) (hinv : q.Inv) : s.Inv := by
  intro q' hq'
  cases hq.symm.trans hq'
  exact hinv

/-- Every command keeps the invariant (R24): the sequence is as it was, or new, or has one more append that fits. -/
theorem exec_inv {i : Instr} {s t : State} (hinv : s.Inv) (h : exec i s = .next t) : t.Inv := by
  rcases exec_seq_cases h with hseq | ⟨c, -, hseq⟩ | ⟨q, ws, hq, hroom, hseq, -⟩
  · exact hinv.of_seq_eq hseq
  · exact State.inv_of_seq hseq (Sequence.create_inv c)
  · exact State.inv_of_seq hseq ((hinv q hq).appended hroom)

/-! ### The buffer as a bounded list -/

/-- The bounded list a sequence stands for (R24, clause 3). -/
def Sequence.bounded (q : Sequence) : BoundedList := ⟨q.capacity, q.contents⟩

theorem listOf_eq (s : State) : listOf s = s.seq.map Sequence.bounded := rfl

/-- The bounded list after an opcode is offered to it: all its words, or none; an error opcode has none (R152). -/
def boundedAppend (o : Opcode) (b : BoundedList) : BoundedList :=
  match wordsOf o with
  | some words => b.add words
  | none => b

theorem boundedAppend_of_words {o : Opcode} {ws : List Half} (h : wordsOf o = some ws) (b : BoundedList) :
    boundedAppend o b = b.add ws := by
  simp only [boundedAppend, h]

theorem boundedAppend_of_no_words {o : Opcode} (h : wordsOf o = none) (b : BoundedList) : boundedAppend o b = b := by
  simp only [boundedAppend, h]

theorem listStep_append (cfg : Config) (b : Option BoundedList) (o : Opcode) :
    listStep cfg b (.append o) = b.map (boundedAppend o) := rfl

theorem listStep_emit (cfg : Config) (b : Option BoundedList) (p : Packer) :
    listStep cfg b (.emit p) = b.map (boundedAppend (pack cfg p)) := rfl

/-- A packer command does not touch the list (R26). -/
theorem listStep_packer {i : Instr} {p : Packer} (h : i.asPacker = some p) (cfg : Config) (b : Option BoundedList) :
    listStep cfg b i = b := by
  cases i <;> cases h <;> rfl

/-- A sequence with the invariant has room for as many words as its bounded list has. -/
theorem Sequence.Inv.bounded_add {q : Sequence} (h : q.Inv) (ws : List Half) :
    q.bounded.add ws = if q.cursor + ws.length ≤ q.capacity then (q.appended ws).bounded else q.bounded := by
  simp only [BoundedList.add, Sequence.bounded, h.length_contents, h.contents_appended, Sequence.appended_capacity]

/-- APPEND on a sequence with the invariant is APPEND on its bounded list (R24, R152). -/
theorem Sequence.Inv.bounded_append {q q' : Sequence} (h : q.Inv) {o : Opcode} {ok : Bool}
    (happ : q.append o = .ok (q', ok)) : q'.bounded = boundedAppend o q.bounded := by
  rcases Sequence.append_cases happ with ⟨-, ws, hws, hroom, rfl⟩ | ⟨-, rfl, hfull⟩
  · rw [boundedAppend_of_words hws, h.bounded_add, if_pos hroom]
  · cases hws : wordsOf o with
    | none => rw [boundedAppend_of_no_words hws]
    | some ws => rw [boundedAppend_of_words hws, h.bounded_add, if_neg (Nat.not_le.2 (hfull ws hws))]

/-- APPEND, alone or inside EMIT, on a state with the invariant is APPEND on its bounded list (R152, R156). -/
theorem listOf_appendAndReport {s t : State} (hinv : s.Inv) {o : Opcode} {report : Bool → Result} {w : Bool}
    (h : appendAndReport o report w s = .next t) : listOf t = (listOf s).map (boundedAppend o) := by
  cases hq : s.seq with
  | none => cases h.symm.trans (appendAndReport_refused hq o report w)
  | some q =>
    obtain ⟨q', ok, happ, ht⟩ := appendAndReport_next hq o report w
    cases h.symm.trans ht
    simp [listOf_eq, hq, (hinv q hq).bounded_append happ]

/-- The commuting square of the refinement: a command does to the bounded list what `listStep` says (R24, clause 3). -/
theorem listOf_exec {i : Instr} {s t : State} (hinv : s.Inv) (h : exec i s = .next t) :
    listOf t = listStep s.cfg (listOf s) i := by
  cases hp : i.asPacker with
  | some p =>
    rw [listStep_packer hp]
    cases h.symm.trans (exec_packer hp s)
    rfl
  | none =>
    rcases buffer_command hp with ⟨c, rfl⟩ | ⟨o, rfl⟩ | rfl | ⟨p, rfl⟩
    · cases h
      rfl
    · rw [listStep_append]
      exact listOf_appendAndReport hinv h
    · obtain ⟨q, ws, -, -, rfl⟩ := exec_drain_next h
      rfl
    · rw [listStep_emit]
      exact listOf_appendAndReport hinv h

/-! ### Performing every command issued -/

/-- A run goes on from the state its first step answers. -/
theorem run_succ_of_step {s t : State} (h : step s = .next t) (k : Nat) :
    Host.Core.run Sys2Proof.core (k + 1) s = Host.Core.run Sys2Proof.core k t := by
  have hcore : Sys2Proof.core.step s = .next t := h
  simp only [Host.Core.run, hcore]

/-- With a command issued, the invariant and a sequence, a step answers: it takes the command off the port, keeps the
parameters, the invariant and that there is a sequence, and does to the bounded list what the command does. -/
theorem step_refines {s : State} {i : Instr} {rest : List Instr} (hport : s.port = i :: rest) (hinv : s.Inv)
    (hseq : s.seq.isSome = true) :
    ∃ t, step s = .next t ∧ t.port = rest ∧ t.cfg = s.cfg ∧ t.Inv ∧ t.seq.isSome = true ∧
      listOf t = listStep s.cfg (listOf s) i := by
  have hstep : step s = exec i { s with port := rest } := by rw [step, fetch_cons hport]
  have hinv' : State.Inv { s with port := rest } := hinv
  rcases exec_next_or_refused hinv' i with ⟨t, ht⟩ | ⟨-, hnone, -⟩
  · obtain ⟨hcfg, hrest⟩ := exec_frame ht
    have hlist : listOf t = listStep s.cfg (listOf s) i := listOf_exec (s := { s with port := rest }) hinv' ht
    exact ⟨t, hstep.trans ht, hrest, hcfg, exec_inv hinv' ht, exec_seq_isSome ht hseq, hlist⟩
  · have hnone : s.seq = none := hnone
    simp [hnone] at hseq

/-- Performing every command issued folds them over the bounded list: the steps of `step_refines`, one a command. -/
theorem run_port_refines (is : List Instr) {s : State} (hport : s.port = is) (hinv : s.Inv)
    (hseq : s.seq.isSome = true) :
    ∃ t, Host.Core.run Sys2Proof.core is.length s = .next t ∧ t.port = [] ∧ t.cfg = s.cfg ∧ t.Inv ∧
      listOf t = is.foldl (listStep s.cfg) (listOf s) := by
  induction is generalizing s with
  | nil => exact ⟨s, rfl, hport, rfl, hinv, rfl⟩
  | cons i rest ih =>
    obtain ⟨s', hstep, hport', hcfg', hinv', hseq', hlist'⟩ := step_refines hport hinv hseq
    obtain ⟨t, hrun, hportt, hcfgt, hinvt, hlistt⟩ := ih hport' hinv' hseq'
    refine ⟨t, (run_succ_of_step hstep rest.length).trans hrun, hportt, hcfgt.trans hcfg', hinvt, ?_⟩
    rw [hlistt, hlist', hcfg', List.foldl_cons]

end Sys2Proof.Machine

namespace Sys2Proof.Proofs

open Sys2Proof.Machine

/-- Settles O45: an idle step leaves the sequence as it is, and a command keeps the invariant. -/
theorem stepKeepsTheInvariant : Obligations.StepKeepsTheInvariant := by
  intro s t hinv hstep
  rcases step_cases s with ⟨-, hidle⟩ | ⟨i, rest, -, hexec⟩
  · cases hstep.symm.trans hidle
    exact hinv.of_seq_eq (idle_seq s)
  · have hinv' : State.Inv { s with port := rest } := hinv
    exact exec_inv hinv' (hexec.symm.trans hstep)

/-- Settles O52, by induction over the commands issued, with the commuting square of one command at each step. -/
theorem bufferRefinesABoundedList : Obligations.BufferRefinesABoundedList :=
  fun s hinv hseq => run_port_refines s.port rfl hinv hseq

/-- Settles O29: the opcode is `pack` of the parameters and the operands, and `pack` sees nothing else of the state. -/
theorem packersReadNoState : Obligations.PackersReadNoState := by
  intro s s' i p hp hcfg
  refine ⟨pack s.cfg p, warnShiftPair p, answers_pack hp s, ?_⟩
  rw [hcfg]
  exact answers_pack hp s'

/-- Settles O42: a command that needs no sequence answers, and one that needs it is not refused where it exists. -/
theorem refusedExactlyBeforeTheFirstCreate : Obligations.RefusedExactlyBeforeTheFirstCreate :=
  ⟨fun _ _ hneeds hseq => exec_refused hseq hneeds, fun _ _ _ h => exec_refused_inv h⟩

/-- Settles O49: what a command that answers can do to the state is nothing, a new sequence, or one more append. -/
theorem onlyBufferWritersChangeTheSequence : Obligations.OnlyBufferWritersChangeTheSequence := by
  intro i s t h
  obtain ⟨hcfg, hport⟩ := exec_frame h
  exact ⟨hcfg, hport, exec_seq_of_no_writer h⟩

/-- Settles O46: at reset there is no sequence. -/
theorem resetHasTheInvariant : Obligations.ResetHasTheInvariant :=
  fun _ hq => nomatch hq

/-- Settles O51: a packer reads the parameters alone, and a buffer command reads the sequence alone. -/
theorem noCommandReadsTheOutputs : Obligations.NoCommandReadsTheOutputs :=
  exec_out

end Sys2Proof.Proofs

/-! PROOFS. Memory (20_memory.md): the byte order of a serialised image, and that DRAIN only reads the sequence. -/

namespace Sys2Proof.Machine

/-! ### Serialised images (R41) -/

@[simp] theorem length_halfBytes (order : ByteOrder) (h : Half) : (halfBytes order h).length = 2 := by
  cases order <;> rfl

@[simp] theorem halfBytes_little (h : Half) : halfBytes .little h = [h.extractLsb' 0 8, h.extractLsb' 8 8] := by
  rw [halfBytes, BitVec.setWidth_ushiftRight_eq_extractLsb, BitVec.setWidth_eq_extractLsb' (by decide)]

/-- The big order is the little one reversed. -/
@[simp] theorem halfBytes_big (h : Half) : halfBytes .big h = [h.extractLsb' 8 8, h.extractLsb' 0 8] :=
  congrArg List.reverse (halfBytes_little h)

theorem length_serialise (order : ByteOrder) (words : List Half) :
    (serialise order words).length = 2 * words.length := by
  induction words with
  | nil => rfl
  | cons w ws ih =>
    rw [serialise, List.length_append, length_halfBytes, ih, List.length_cons]
    omega

/-- Byte `j` of halfword `k` stands at byte `2k + j` of the image: each halfword before it takes two bytes. -/
theorem getElem?_serialise (order : ByteOrder) {words : List Half} {k j : Nat} {h : Half} (hk : words[k]? = some h)
    (hj : j < 2) : (serialise order words)[2 * k + j]? = (halfBytes order h)[j]? := by
  induction words generalizing k with
  | nil => simp at hk
  | cons w ws ih =>
    rw [serialise]
    cases k with
    | zero =>
      obtain rfl : w = h := by simpa using hk
      rw [List.getElem?_append_left (by simpa using hj), Nat.mul_zero, Nat.zero_add]
    | succ k =>
      have hpast : 2 * (k + 1) + j - 2 = 2 * k + j := by omega
      rw [List.getElem?_append_right (by rw [length_halfBytes]; omega), length_halfBytes, hpast]
      exact ih (by simpa using hk)

/-! ### DRAIN in any state (R44) -/

/-- DRAIN answers wherever the sequence's cells below the cursor hold values, the invariant or not. -/
theorem exec_drain_of_drain_ok {s : State} {q : Sequence} {ws : List Half} (hq : s.seq = some q)
    (hd : q.drain = .ok ws) : exec .drain s = .next (s.answer (.drained ws) false) := by
  show execDrain s = _
  rw [execDrain, onSequence, hq]
  simp only [hd]

end Sys2Proof.Machine

namespace Sys2Proof.Proofs

open Sys2Proof.Machine

/-- Settles O36: each byte by its place within its halfword, in each order. -/
theorem serialisedImageByteOrder : Obligations.SerialisedImageByteOrder := by
  intro words k h hk
  have hbyte (order : ByteOrder) {j : Nat} (hj : j < 2) := getElem?_serialise order hk hj
  refine ⟨?_, ?_, ?_, ?_, length_serialise .little words, length_serialise .big words⟩
  · simpa using hbyte .little Nat.zero_lt_two
  · simpa using hbyte .little Nat.one_lt_two
  · simpa using hbyte .big Nat.zero_lt_two
  · simpa using hbyte .big Nat.one_lt_two

/-- Settles O44: DRAIN changes only the outputs, so the second one drains the same sequence. -/
theorem drainIsReadOnly : Obligations.DrainIsReadOnly := by
  intro s t h
  obtain ⟨q, ws, hq, hd, rfl⟩ := exec_drain_next h
  have hagain := exec_drain_of_drain_ok (s := s.answer (.drained ws) false) hq hd
  exact ⟨rfl, by rwa [State.answer_answer] at hagain⟩

end Sys2Proof.Proofs

/-! PROOFS. Encoding (30_encoding.md): the packing law read backwards, the round trips of the decoder, the words and the
errors of the packer commands. -/

namespace Sys2Proof

open Sys2Proof.Machine Sys2Proof.Spec

/-! ### Fields of a word (R7, R62) -/

/-- A field read out of an OR is the OR of the fields. -/
theorem getSlot_or (lo width : Nat) (v w : Word32) :
    getSlot lo width (v ||| w) = getSlot lo width v ||| getSlot lo width w := by
  refine BitVec.eq_of_getLsbD_eq fun n _ => ?_
  simp only [getLsbD_getSlot, BitVec.getLsbD_or, Bool.and_or_distrib_left]

/-- A field is zero where every bit it covers is. -/
theorem getSlot_eq_zero {lo width : Nat} {w : Word32} (h : ∀ n < width, w.getLsbD (lo + n) = false) :
    getSlot lo width w = 0 := by
  refine BitVec.eq_of_getLsbD_eq fun n _ => ?_
  rw [getLsbD_getSlot, BitVec.ofNat_eq_ofNat, BitVec.getLsbD_zero]
  by_cases hn : n < width
  · rw [h n hn, Bool.and_false]
  · rw [decide_eq_false hn, Bool.and_false, Bool.false_and]

/-- A field reads back the value placed in it, masked to its width. -/
theorem getSlot_putSlot_same {f : Slot} (hf : f.lo + f.width ≤ 32) (v : Word32) :
    getSlot f.lo f.width (putSlot f v) = getSlot 0 f.width v := by
  refine BitVec.eq_of_getLsbD_eq fun n hn => ?_
  rw [getLsbD_getSlot, getLsbD_getSlot, getLsbD_putSlot]
  by_cases h : n < f.width
  · simp [h, show f.lo + n < 32 by omega]
  · simp [h]

/-- Two fields have no bit in common. -/
abbrev Slot.Disjoint (f g : Slot) : Prop := f.lo + f.width ≤ g.lo ∨ g.lo + g.width ≤ f.lo

/-- A value placed in one field leaves a disjoint one zero. -/
theorem getSlot_putSlot_disjoint {f g : Slot} (h : f.Disjoint g) (v : Word32) :
    getSlot f.lo f.width (putSlot g v) = 0 := by
  refine getSlot_eq_zero fun n hn => ?_
  have hout : ¬(g.lo ≤ f.lo + n ∧ f.lo + n - g.lo < g.width) := by omega
  rw [getLsbD_putSlot, Bool.and_assoc (decide (f.lo + n < 32)), ← Bool.decide_and, decide_eq_false hout, Bool.and_false,
    Bool.false_and]

/-- A placed value has bits where its field does, and nowhere else (R62). -/
theorem getLsbD_putSlot_eq_slotMask (f : Slot) (v : Word32) (n : Nat) :
    (putSlot f v).getLsbD n = ((slotMask f).getLsbD n && v.getLsbD (n - f.lo)) := by
  rw [slotMask, getLsbD_putSlot, getLsbD_putSlot, BitVec.getLsbD_allOnes]
  by_cases h : n < 32
  · rw [decide_eq_true (show n - f.lo < 32 by omega), Bool.and_true]
  · simp only [decide_eq_false h, Bool.false_and]

/-- The bits a field covers. -/
theorem getLsbD_slotMask_iff (f : Slot) (n : Nat) :
    (slotMask f).getLsbD n = true ↔ n < 32 ∧ f.lo ≤ n ∧ n < f.lo + f.width := by
  simp only [slotMask, getLsbD_putSlot, BitVec.getLsbD_allOnes, Bool.and_eq_true, decide_eq_true_eq]
  omega

/-- A field put back in its place is what the field covers of the word. -/
theorem putSlot_getSlot (f : Slot) (w : Word32) : putSlot f (getSlot f.lo f.width w) = w &&& slotMask f := by
  refine BitVec.eq_of_getLsbD_eq fun n _ => ?_
  rw [BitVec.getLsbD_and, getLsbD_putSlot_eq_slotMask, getLsbD_getSlot]
  cases hm : (slotMask f).getLsbD n with
  | false => rw [Bool.false_and, Bool.and_false]
  | true =>
    obtain ⟨hn, hlo, hhi⟩ := (getLsbD_slotMask_iff f n).1 hm
    rw [Nat.add_sub_cancel' hlo, decide_eq_true (show n - f.lo < 32 by omega),
      decide_eq_true (show n - f.lo < f.width by omega)]
    simp only [Bool.true_and, Bool.and_true]

/-! ### The fields of a format (R63, R64) -/

theorem formatSlots_disjoint (f : Format) : (formatSlots f).Pairwise Slot.Disjoint := by cases f <;> decide

theorem formatSlots_in_word (f : Format) : ∀ g ∈ formatSlots f, g.lo + g.width ≤ 32 := by cases f <;> decide

/-- The fields of `w` at these places hold these values, masked to their widths, one after the other. -/
def HoldsFields (w : Word32) : List Slot → List Word32 → Prop
  | f :: fs, v :: vs => getSlot f.lo f.width w = getSlot 0 f.width v ∧ HoldsFields w fs vs
  | [], _ => True
  | _ :: _, [] => True

/-- Values packed into disjoint fields leave a field that is disjoint from all of them as it is. -/
theorem getSlot_packed_disjoint {f : Slot} {fs : List Slot} (h : ∀ g ∈ fs, f.Disjoint g) (vs : List Word32) :
    getSlot f.lo f.width (orAll (List.zipWith putSlot fs vs)) = 0 := by
  induction fs generalizing vs with
  | nil => exact getSlot_eq_zero fun n _ => BitVec.getLsbD_zero
  | cons g fs ih =>
    obtain ⟨hg, hfs⟩ := List.forall_mem_cons.1 h
    cases vs with
    | nil => exact getSlot_eq_zero fun n _ => BitVec.getLsbD_zero
    | cons v vs =>
      rw [List.zipWith_cons_cons, orAll, getSlot_or, getSlot_putSlot_disjoint hg, ih hfs]
      rfl

/-- Values packed over a word that is zero in their fields are held there: each field is disjoint from the others. -/
theorem holdsFields_packed {fs : List Slot} (hdisj : fs.Pairwise Slot.Disjoint) (hin : ∀ f ∈ fs, f.lo + f.width ≤ 32)
    {w : Word32} (hclear : ∀ f ∈ fs, getSlot f.lo f.width w = 0) (vs : List Word32) :
    HoldsFields (w ||| orAll (List.zipWith putSlot fs vs)) fs vs := by
  induction fs generalizing w vs with
  | nil => trivial
  | cons f fs ih =>
    cases vs with
    | nil => trivial
    | cons v vs =>
      obtain ⟨hf, hfs⟩ := List.pairwise_cons.1 hdisj
      obtain ⟨hfin, hfsin⟩ := List.forall_mem_cons.1 hin
      obtain ⟨hfw, hfsw⟩ := List.forall_mem_cons.1 hclear
      refine ⟨?_, ?_⟩
      · rw [List.zipWith_cons_cons, orAll, getSlot_or, getSlot_or, hfw, getSlot_putSlot_same hfin,
          getSlot_packed_disjoint hf]
        simp only [BitVec.ofNat_eq_ofNat, BitVec.zero_or, BitVec.or_zero]
      · rw [List.zipWith_cons_cons, orAll, ← BitVec.or_assoc]
        refine ih hfs hfsin (fun g hg => ?_) vs
        rw [getSlot_or, hfsw g hg, getSlot_putSlot_disjoint (hf g hg).symm]
        rfl

/-- An OR of words has a bit where one of them has it. -/
theorem getLsbD_orAll_iff (ws : List Word32) (n : Nat) :
    (orAll ws).getLsbD n = true ↔ ∃ w ∈ ws, w.getLsbD n = true := by
  induction ws with
  | nil => simp [orAll]
  | cons w ws ih => rw [orAll, BitVec.getLsbD_or, Bool.or_eq_true, ih, List.exists_mem_cons_iff]

/-- No value leaves the fields it is packed into. -/
theorem getLsbD_mask_of_packed {fs : List Slot} {vs : List Word32} {n : Nat}
    (h : (orAll (List.zipWith putSlot fs vs)).getLsbD n = true) : (orAll (fs.map slotMask)).getLsbD n = true := by
  rw [← List.map_uncurry_zip_eq_zipWith, getLsbD_orAll_iff] at h
  obtain ⟨w, hw, hbit⟩ := h
  obtain ⟨⟨f, v⟩, hfv, rfl⟩ := List.mem_map.1 hw
  rw [Function.uncurry_apply_pair, getLsbD_putSlot_eq_slotMask, Bool.and_eq_true] at hbit
  exact (getLsbD_orAll_iff _ n).2 ⟨slotMask f, List.mem_map_of_mem (List.of_mem_zip hfv).1, hbit.1⟩

/-! ### The words a format packs (R62) -/

/-- What a packed word is made of: the base outside the format's fields, and each value masked into its field. -/
structure Carries (f : Format) (base : Word32) (vs : List Word32) (w : Word32) : Prop where
  base : w &&& ~~~f.operandMask = base
  fields : HoldsFields w (formatSlots f) vs

/-- A base that is zero in a format's fields is zero in each of them (R192). -/
theorem getSlot_of_clear {f : Format} {base : Word32} (h : base &&& f.operandMask = 0) {g : Slot}
    (hg : g ∈ formatSlots f) : getSlot g.lo g.width base = 0 := by
  refine getSlot_eq_zero fun n hn => ?_
  have hin := formatSlots_in_word f g hg
  have hmask : f.operandMask.getLsbD (g.lo + n) = true := by
    rw [← formatMask_eq, formatMask, getLsbD_orAll_iff]
    exact ⟨slotMask g, List.mem_map_of_mem hg, (getLsbD_slotMask_iff g _).2 (by omega)⟩
  simpa only [BitVec.getLsbD_and, hmask, Bool.and_true, BitVec.ofNat_eq_ofNat, BitVec.getLsbD_zero] using
    congrArg (BitVec.getLsbD · (g.lo + n)) h

/-- A packed word is the base outside the format's fields (R62). -/
theorem packFields_outside (f : Format) (base : Word32) (vs : List Word32) :
    packFields f base vs &&& ~~~f.operandMask = base &&& ~~~f.operandMask := by
  refine BitVec.eq_of_getLsbD_eq fun n hn => ?_
  rw [packFields, ← formatMask_eq, formatMask, BitVec.getLsbD_and, BitVec.getLsbD_and, BitVec.getLsbD_or,
    BitVec.getLsbD_not, decide_eq_true hn, Bool.true_and]
  cases hm : (orAll ((formatSlots f).map slotMask)).getLsbD n with
  | true => simp only [Bool.not_true, Bool.and_false]
  | false =>
    have hp : (orAll (List.zipWith putSlot (formatSlots f) vs)).getLsbD n = false :=
      Bool.eq_false_iff.2 (mt getLsbD_mask_of_packed (Bool.eq_false_iff.1 hm))
    rw [hp, Bool.or_false]

/-- A word is what a mask covers of it and what the mask leaves. -/
theorem and_or_and_not (w mask : Word32) : w &&& mask ||| w &&& ~~~mask = w := by
  rw [← BitVec.and_or_distrib_left, BitVec.or_not_self, BitVec.and_allOnes]

/-- A base that is zero in a format's fields is all outside them. -/
theorem and_not_mask_of_clear {base mask : Word32} (h : base &&& mask = 0) : base &&& ~~~mask = base := by
  have hsplit := and_or_and_not base mask
  rwa [h, BitVec.ofNat_eq_ofNat, BitVec.zero_or] at hsplit

/-- The packing law read backwards: over a base that is zero in every field (R192) the base and each value come back. -/
theorem packFields_carries {f : Format} {base : Word32} (h : base &&& f.operandMask = 0) (vs : List Word32) :
    Carries f base vs (packFields f base vs) where
  base := by rw [packFields_outside, and_not_mask_of_clear h]
  fields := holdsFields_packed (formatSlots_disjoint f) (formatSlots_in_word f) (fun _ hg => getSlot_of_clear h hg) vs

/-! ### Words of one and of two halfwords (R61, R95) -/

/-- A 16-bit format has no field above bit 15 (R63). -/
theorem operandMask_lt_of_half {f : Format} (hf : formatHalves f = 1) : f.operandMask.toNat < 2 ^ 16 := by
  revert hf
  cases f <;> decide

@[simp] theorem setWidth_setWidth_half (h : Half) : (h.setWidth 32).setWidth 16 = h := by
  bv_omega

/-- A word below `2^16` is its low halfword. -/
theorem setWidth_lo16_of_lt {w : Word32} (h : w.toNat < 2 ^ 16) : (lo16 w).setWidth 32 = w := by
  rw [lo16]
  bv_omega

/-- A 16-bit base is clear of a 16-bit format's fields as a 32-bit word where it is as a halfword. -/
theorem and_operandMask_of_baseClear16 {f : Format} (hf : formatHalves f = 1) {base : Half}
    (h : baseClear16 f base = true) : base.setWidth 32 &&& f.operandMask = 0 := by
  have hmask : (f.operandMask.setWidth 16).setWidth 32 = f.operandMask :=
    setWidth_lo16_of_lt (operandMask_lt_of_half hf)
  rw [← hmask, ← BitVec.setWidth_and, eq_of_beq h]
  rfl

/-- A word that carries a 16-bit format's fields over a base of 16 bits is its low halfword. -/
theorem Carries.setWidth_lo16 {f : Format} {base w : Word32} {vs : List Word32} (h : Carries f base vs w)
    (hf : formatHalves f = 1) (hbase : base.toNat < 2 ^ 16) : (lo16 w).setWidth 32 = w := by
  refine setWidth_lo16_of_lt ?_
  rw [← and_or_and_not w f.operandMask, h.base, BitVec.toNat_or, BitVec.toNat_and]
  exact Nat.or_lt_two_pow (Nat.and_lt_two_pow _ (operandMask_lt_of_half hf)) hbase

/-- Reading a 16-bit format's word back from its one halfword. -/
theorem decodeAs_of_half {f : Format} (hf : formatHalves f = 1) (cfg : Config) {w : Word32}
    (h : (lo16 w).setWidth 32 = w) : decodeAs cfg f (formatWords f w) = .ok (readFields cfg f w) := by
  simp only [decodeAs, formatWords, hf, if_true, h]

/-- Reading a 32-bit format's word back from its two halfwords. -/
theorem decodeAs_of_word {f : Format} (hf : formatHalves f = 2) (cfg : Config) (w : Word32) :
    decodeAs cfg f (formatWords f w) = .ok (readFields cfg f w) := by
  simp only [decodeAs, formatWords, hf, OfNat.ofNat_ne_one, if_false, joinHalves_hi16_lo16]

/-! ### Operands read back from the fields of a word -/

/-- A register of a 4-bit field. -/
theorem readReg_eq {lo : Nat} {w : Word32} {r : Reg} (h : getSlot lo 4 w = getSlot 0 4 (r.setWidth 32)) :
    readReg lo 4 w = r := by
  rw [readReg, h]
  clear h
  revert r
  decide

/-- A low register of a 3-bit field (R65, R110). -/
theorem readReg_low_eq {lo : Nat} {w : Word32} {r : Reg} (hr : lowOperand r = true)
    (h : getSlot lo 3 w = getSlot 0 3 (r.setWidth 32)) : readReg lo 3 w = r := by
  rw [readReg, h]
  clear h
  revert r
  decide

/-- The register of `T16.two_any` whose bit 3 has a field of its own (R108). -/
theorem readReg_split_eq {w : Word32} {r : Reg} (hhi : getSlot 7 1 w = getSlot 0 1 (r.setWidth 32 >>> 3))
    (hlo : getSlot 0 3 w = getSlot 0 3 (r.setWidth 32)) : readReg 7 1 w <<< 3 ||| readReg 0 3 w = r := by
  rw [readReg, readReg, hhi, hlo]
  clear hhi hlo
  revert r
  decide

/-- A value that fits its field is not changed by the mask (R66). -/
theorem getSlot_of_fits {width : Nat} {v : Imm} (h : fits width v = true) : getSlot 0 width v = v := by
  have hlt : v.toNat < 2 ^ width := of_decide_eq_true h
  refine BitVec.eq_of_toNat_eq ?_
  rw [getSlot, BitVec.toNat_setWidth, BitVec.extractLsb'_toNat, Nat.shiftRight_zero, Nat.mod_eq_of_lt hlt,
    Nat.mod_eq_of_lt v.isLt]

/-- A bit of a word is a bit of the field that covers it. -/
theorem getLsbD_of_getSlot_eq {lo width : Nat} {v w : Word32} (h : getSlot lo width w = getSlot 0 width v) {n : Nat}
    (hn : n < width) (hword : n < 32) : w.getLsbD (lo + n) = v.getLsbD n := by
  have hbit := congrArg (BitVec.getLsbD · n) h
  simpa only [getLsbD_getSlot, hn, hword, decide_true, Bool.true_and, Nat.zero_add] using hbit

/-- A flag of a one-bit field (R70). -/
theorem getLsbD_of_bitValue {lo : Nat} {w : Word32} {b : Bool} (h : getSlot lo 1 w = getSlot 0 1 (bitValue b)) :
    w.getLsbD lo = b := by
  rw [← Nat.add_zero lo, getLsbD_of_getSlot_eq h Nat.one_pos (by decide)]
  cases b <;> rfl

/-- imm12 from its three fields (R67). -/
theorem readImm12_eq {w : Word32} {v : Imm} (hi : getSlot 26 1 w = getSlot 0 1 (v >>> 11))
    (himm3 : getSlot 12 3 w = getSlot 0 3 (v >>> 8)) (himm8 : getSlot 0 8 w = getSlot 0 8 v)
    (hfits : fits 12 v = true) : readImm12 w = v := by
  rw [readImm12, hi, himm3, himm8]
  conv_rhs => rw [← getSlot_of_fits hfits]
  refine BitVec.eq_of_getLsbD_eq fun n hn => ?_
  interval_cases n <;> simp [-BitVec.getLsbD_eq_getElem]

/-- imm5 from its two fields (R68). -/
theorem readImm5_eq {w : Word32} {v : Imm} (himm3 : getSlot 12 3 w = getSlot 0 3 (v >>> 2))
    (himm2 : getSlot 6 2 w = getSlot 0 2 v) (hfits : fits 5 v = true) : readImm5 w = v := by
  rw [readImm5, himm3, himm2]
  conv_rhs => rw [← getSlot_of_fits hfits]
  refine BitVec.eq_of_getLsbD_eq fun n hn => ?_
  interval_cases n <;> simp [-BitVec.getLsbD_eq_getElem]

/-- An imm5 that fits its field is zero where its low five bits are. -/
theorem and_0x1F_of_fits {v : Imm} (h : fits 5 v = true) : v &&& 0x1F = v := by
  have hlt : v.toNat < 2 ^ 5 := of_decide_eq_true h
  refine BitVec.eq_of_toNat_eq ?_
  rw [BitVec.toNat_and, show (0x1F : Imm).toNat = 2 ^ 5 - 1 from rfl, Nat.and_two_pow_sub_one_eq_mod,
    Nat.mod_eq_of_lt hlt]

/-- The shift type from its code and the amount: ROR and RRX share a code, and a well-formed operand has RRX with amount
zero and ROR with any other (R69). -/
theorem readShift_eq {w : Word32} {shift : ShiftType} {v : Imm}
    (hcode : getSlot 4 2 w = getSlot 0 2 (shiftTableCode shift)) (himm : readImm5 w = v) (hfits : fits 5 v = true)
    (hok : shiftOperandOk shift v = true) : readShift w = shift := by
  have hlow : w.getLsbD 4 = (shiftTableCode shift).getLsbD 0 :=
    getLsbD_of_getSlot_eq hcode (n := 0) (by decide) (by decide)
  have hhigh : w.getLsbD 5 = (shiftTableCode shift).getLsbD 1 :=
    getLsbD_of_getSlot_eq hcode (n := 1) (by decide) (by decide)
  rw [readShift, hlow, hhigh, himm]
  cases shift with
  | lsl | lsr | asr => rfl
  | ror =>
    rw [shiftOperandOk, and_0x1F_of_fits hfits, bne_iff_ne] at hok
    exact if_neg hok
  | rrx =>
    rw [shiftOperandOk, and_0x1F_of_fits hfits, beq_iff_eq] at hok
    exact if_pos hok
  | none => cases hok

/-! ### Displacements (R144, R145) -/

/-- The bits of the reassembly's mask: those that R141 reads, and bit 0 (R144). -/
theorem getLsbD_dispFieldMask (cfg : Config) {n : Nat} (hn : n < 32) :
    (dispFieldMask cfg).getLsbD n = (cfg.readsDispBit n || decide (n = 0)) := by
  rw [dispFieldMask, BitVec.getLsbD_or, BitVec.getLsbD_or, BitVec.getLsbD_or, getLsbD_oneAt, getLsbD_oneAt,
    getLsbD_oneAt, getLsbD_low_mask 22 n (by decide) _ (by decide), Config.readsDispBit, Bool.eq_iff_iff]
  simp only [Bool.or_eq_true, Bool.and_eq_true, decide_eq_true_eq, beq_iff_eq, hn, true_and, and_true]
  omega

/-- The displacement reassembled from the fields of another, bit by bit: the bits that R141 reads come back, bit 0 is
zero, and every other bit is the sign (R144). -/
theorem getLsbD_reassemble (cfg : Config) (d : Disp) {n : Nat} (hn : n < 32) :
    (reassemble cfg (d.getLsbD cfg.dispSBit.val) (d.getLsbD cfg.dispI1Bit.val) (d.getLsbD cfg.dispI2Bit.val)
      (getSlot 0 10 (d >>> 12)) (getSlot 0 11 (d >>> 1))).getLsbD n =
    if cfg.readsDispBit n then d.getLsbD n else decide (n ≠ 0) && d.getLsbD cfg.dispSBit.val := by
  have hsign : (if d.getLsbD cfg.dispSBit.val then ~~~dispFieldMask cfg else 0).getLsbD n =
      (d.getLsbD cfg.dispSBit.val && !(cfg.readsDispBit n || decide (n = 0))) := by
    cases d.getLsbD cfg.dispSBit.val with
    | true => simp [getLsbD_dispFieldMask cfg hn, hn, -BitVec.getLsbD_eq_getElem]
    | false => simp
  rw [reassemble, BitVec.getLsbD_or, BitVec.getLsbD_or, BitVec.getLsbD_or, BitVec.getLsbD_or, BitVec.getLsbD_or, hsign]
  simp only [Config.readsDispBit, getLsbD_oneAt, BitVec.getLsbD_shiftLeft, getLsbD_getSlot, BitVec.getLsbD_ushiftRight]
  grind

/-- A representable displacement is the one its fields reassemble to (R145). -/
theorem reassemble_of_representable {cfg : Config} {d : Disp} (h : representable cfg d = true) :
    reassemble cfg (d.getLsbD cfg.dispSBit.val) (d.getLsbD cfg.dispI1Bit.val) (d.getLsbD cfg.dispI2Bit.val)
      (getSlot 0 10 (d >>> 12)) (getSlot 0 11 (d >>> 1)) = d := by
  rw [representable, Bool.and_eq_true, Bool.not_eq_true', List.all_eq_true] at h
  obtain ⟨hzero, hsign⟩ := h
  refine BitVec.eq_of_getLsbD_eq fun n hn => ?_
  rw [getLsbD_reassemble cfg d hn]
  by_cases hread : cfg.readsDispBit n = true
  · rw [if_pos hread]
  · rw [if_neg hread]
    by_cases h0 : n = 0
    · rw [h0, hzero]
      rfl
    · have hrest := hsign n (List.mem_range.2 hn)
      rw [Bool.or_eq_true, Bool.or_eq_true, beq_iff_eq, beq_iff_eq] at hrest
      rw [decide_eq_true h0, Bool.true_and, hrest.resolve_left (not_or.2 ⟨h0, hread⟩)]

/-- The branch fields hold those of a displacement, the J bits made of S and the I bits by `j` (R71). -/
theorem decodeBranch_eq {cfg : Config} {w : Word32} {d : Disp} (hrep : representable cfg d = true)
    (h : HoldsFields w (formatSlots .t32Branch) (dispValues cfg (fun s i => s == i) d)) : decodeBranch cfg w = d := by
  obtain ⟨hs, himm10, hj1, hj2, himm11, -⟩ := h
  have hreturn (s i : Bool) : (if (s == i) = true then s else !s) = i := by revert s i; decide
  rw [decodeBranch, getLsbD_of_bitValue hs, getLsbD_of_bitValue hj1, getLsbD_of_bitValue hj2, himm10, himm11, hreturn,
    hreturn, reassemble_of_representable hrep]

/-- The conditional form: the J bits are the I bits (R144). -/
theorem decodeCond_eq {cfg : Config} {w : Word32} {d : Disp} (hrep : representable cfg d = true)
    (h : HoldsFields w (formatSlots .t32CondBranch) (dispValues cfg (fun _ i => i) d)) : decodeCond cfg w = d := by
  obtain ⟨hs, himm10, hj1, hj2, himm11, -⟩ := h
  rw [decodeCond, getLsbD_of_bitValue hs, getLsbD_of_bitValue hj1, getLsbD_of_bitValue hj2, himm10, himm11,
    reassemble_of_representable hrep]

/-! ### A packer command's fields -/

/-- The widths of `T16.imm` that have a format, and its fields (R101). -/
theorem fieldValues_t16Imm {cfg : Config} {base : Half} {width : Nat} {imm : Imm} {f : Format} {b : Word32}
    {vs : List Word32} (h : fieldValues cfg (.t16Imm base width imm) = some (f, b, vs)) :
    b = base.setWidth 32 ∧ vs = [imm] ∧
      (width = 7 ∧ f = .t16Imm7 ∨ width = 8 ∧ f = .t16Imm8 ∨ width = 11 ∧ f = .t16Imm11) := by
  rw [fieldValues.eq_def] at h
  split at h <;> simp_all

/-- A 16-bit format's base has 16 bits (R62). -/
theorem fieldValues_base_lt {cfg : Config} {p : Packer} {f : Format} {base : Word32} {vs : List Word32}
    (hv : fieldValues cfg p = some (f, base, vs)) (hf : formatHalves f = 1) : base.toNat < 2 ^ 16 := by
  have hhalf (b : Half) : (b.setWidth 32).toNat < 2 ^ 16 := by
    rw [BitVec.toNat_setWidth_of_le (by decide)]
    exact b.isLt
  cases p with
  | t16Imm b width imm =>
    obtain ⟨rfl, -, -⟩ := fieldValues_t16Imm hv
    exact hhalf b
  | t16NoOperand | t16RegImm8 | t16RegImm5 | t16TwoLow | t16ThreeLow | t16TwoLowImm3 | t16OneAny | t16TwoAny =>
    cases hv
    exact hhalf _
  | t32NoOperand | t32OneRegImm12 | t32TwoRegImm12 | t32TwoRegImm12Sf | t32TwoRegImm5Sf | t32TwoRegImm5Shift
  | t32TwoRegImm5ShiftSf | t32ThreeReg | t32ThreeRegSf | t32ThreeRegImm5ShiftSf | t32Branch | t32CondBranch =>
    cases hv
    cases hf

/-- The base of a well-formed packer command is zero in its format's fields (R192). -/
theorem base_clear_of_wellFormed {cfg : Config} {p : Packer} {f : Format} {base : Word32} {vs : List Word32}
    (hwf : p.wellFormed cfg = true) (hv : fieldValues cfg p = some (f, base, vs)) : base &&& f.operandMask = 0 := by
  cases p with
  | t16Imm b width imm =>
    obtain ⟨rfl, -, ⟨rfl, rfl⟩ | ⟨rfl, rfl⟩ | ⟨rfl, rfl⟩⟩ := fieldValues_t16Imm hv <;>
    · rw [Packer.wellFormed, Bool.and_eq_true] at hwf
      exact and_operandMask_of_baseClear16 rfl hwf.1
  | t16NoOperand | t32NoOperand =>
    cases hv
    exact BitVec.and_zero
  | t16OneAny | t16TwoAny =>
    cases hv
    exact and_operandMask_of_baseClear16 rfl hwf
  | t16RegImm8 | t16RegImm5 | t16TwoLow | t16ThreeLow | t16TwoLowImm3 =>
    cases hv
    simp only [Packer.wellFormed, Bool.and_eq_true, and_assoc] at hwf
    exact and_operandMask_of_baseClear16 rfl hwf.1
  | t32ThreeReg | t32ThreeRegSf =>
    cases hv
    exact eq_of_beq hwf
  | t32OneRegImm12 | t32TwoRegImm12 | t32TwoRegImm12Sf | t32TwoRegImm5Sf | t32TwoRegImm5Shift
  | t32TwoRegImm5ShiftSf | t32ThreeRegImm5ShiftSf | t32Branch | t32CondBranch =>
    cases hv
    simp only [Packer.wellFormed, Bool.and_eq_true, and_assoc] at hwf
    exact eq_of_beq hwf.1

/-! ### The round trip under a format tag -/

/-- The command read from a word that carries a well-formed packer row's base and operand values is that row's command:
each operand from its own fields (R110, R144). -/
theorem readFields_of_carries {cfg : Config} {i : Instr} {p : Packer} {f : Format} {base w : Word32} {vs : List Word32}
    (hwf : i.wellFormed cfg = true) (hf : formatOf i = some f) (hp : i.asPacker = some p)
    (hv : fieldValues cfg p = some (f, base, vs)) (h : Carries f base vs w) : readFields cfg f w = i := by
  obtain ⟨hbase, hfields⟩ := h
  cases i <;> cases hf <;> cases hp <;> cases hv <;>
    simp only [Instr.wellFormed, Packer.wellFormed, Bool.and_eq_true] at hwf
  case t16NoOperand | t32NoOperand => simp only [readFields, hbase, setWidth_setWidth_half]
  case t16Imm7 | t16Imm8 | t16Imm11 =>
    obtain ⟨himm, -⟩ := hfields
    simp only [readFields, hbase, setWidth_setWidth_half, himm, getSlot_of_fits hwf.2]
  case t16RegImm8 =>
    obtain ⟨⟨-, hlow⟩, hfits⟩ := hwf
    obtain ⟨hrd, himm8, -⟩ := hfields
    simp only [readFields, hbase, setWidth_setWidth_half, readReg_low_eq hlow hrd, himm8, getSlot_of_fits hfits]
  case t16RegImm5 | t16TwoLowImm3 =>
    obtain ⟨⟨⟨-, hlowd⟩, hlowm⟩, hfits⟩ := hwf
    obtain ⟨hrd, hrm, himm, -⟩ := hfields
    simp only [readFields, hbase, setWidth_setWidth_half, readReg_low_eq hlowd hrd, readReg_low_eq hlowm hrm, himm,
      getSlot_of_fits hfits]
  case t16TwoLow =>
    obtain ⟨⟨-, hlowd⟩, hlowm⟩ := hwf
    obtain ⟨hrd, hrm, -⟩ := hfields
    simp only [readFields, hbase, setWidth_setWidth_half, readReg_low_eq hlowd hrd, readReg_low_eq hlowm hrm]
  case t16ThreeLow =>
    obtain ⟨⟨⟨-, hlowd⟩, hlown⟩, hlowm⟩ := hwf
    obtain ⟨hrd, hrn, hrm, -⟩ := hfields
    simp only [readFields, hbase, setWidth_setWidth_half, readReg_low_eq hlowd hrd, readReg_low_eq hlown hrn,
      readReg_low_eq hlowm hrm]
  case t16OneAny =>
    obtain ⟨hrm, -⟩ := hfields
    simp only [readFields, hbase, setWidth_setWidth_half, readReg_eq hrm]
  case t16TwoAny =>
    obtain ⟨hhigh, hlow, hr2, -⟩ := hfields
    simp only [readFields, hbase, setWidth_setWidth_half, readReg_split_eq hhigh hlow, readReg_eq hr2]
  case t32OneRegImm12 =>
    obtain ⟨hrd, hi, himm3, himm8, -⟩ := hfields
    simp only [readFields, hbase, readReg_eq hrd, readImm12_eq hi himm3 himm8 hwf.2]
  case t32TwoRegImm12 =>
    obtain ⟨hrd, hrn, hi, himm3, himm8, -⟩ := hfields
    simp only [readFields, hbase, readReg_eq hrd, readReg_eq hrn, readImm12_eq hi himm3 himm8 hwf.2]
  case t32TwoRegImm12Sf =>
    obtain ⟨hrd, hrn, hi, himm3, himm8, hsf, -⟩ := hfields
    simp only [readFields, hbase, readReg_eq hrd, readReg_eq hrn, readImm12_eq hi himm3 himm8 hwf.2,
      getLsbD_of_bitValue hsf]
  case t32TwoRegImm5Sf =>
    obtain ⟨hrd, hrn, himm3, himm2, hsf, -⟩ := hfields
    simp only [readFields, hbase, readReg_eq hrd, readReg_eq hrn, readImm5_eq himm3 himm2 hwf.2,
      getLsbD_of_bitValue hsf]
  case t32TwoRegImm5Shift =>
    obtain ⟨⟨-, hfits⟩, hshift⟩ := hwf
    obtain ⟨hrd, hrn, himm3, himm2, hcode, -⟩ := hfields
    have himm5 := readImm5_eq himm3 himm2 hfits
    simp only [readFields, hbase, readReg_eq hrd, readReg_eq hrn, himm5, readShift_eq hcode himm5 hfits hshift]
  case t32TwoRegImm5ShiftSf =>
    obtain ⟨⟨-, hfits⟩, hshift⟩ := hwf
    obtain ⟨hrd, hrn, himm3, himm2, hcode, hsf, -⟩ := hfields
    have himm5 := readImm5_eq himm3 himm2 hfits
    simp only [readFields, hbase, readReg_eq hrd, readReg_eq hrn, himm5, readShift_eq hcode himm5 hfits hshift,
      getLsbD_of_bitValue hsf]
  case t32ThreeReg =>
    obtain ⟨hrd, hrn, hrm, -⟩ := hfields
    simp only [readFields, hbase, readReg_eq hrd, readReg_eq hrn, readReg_eq hrm]
  case t32ThreeRegSf =>
    obtain ⟨hrd, hrn, hrm, hsf, -⟩ := hfields
    simp only [readFields, hbase, readReg_eq hrd, readReg_eq hrn, readReg_eq hrm, getLsbD_of_bitValue hsf]
  case t32ThreeRegImm5ShiftSf =>
    obtain ⟨⟨-, hfits⟩, hshift⟩ := hwf
    obtain ⟨hrd, hrn, hrm, himm3, himm2, hcode, hsf, -⟩ := hfields
    have himm5 := readImm5_eq himm3 himm2 hfits
    simp only [readFields, hbase, readReg_eq hrd, readReg_eq hrn, readReg_eq hrm, himm5,
      readShift_eq hcode himm5 hfits hshift, getLsbD_of_bitValue hsf]
  case t32Branch => simp only [readFields, hbase, decodeBranch_eq hwf.2 hfields]
  case t32CondBranch => simp only [readFields, hbase, decodeCond_eq hwf.2 hfields]

/-- A packer row's command is a packer command of its format, and as well-formed as it. -/
theorem packer_of_formatOf {i : Instr} {f : Format} (h : formatOf i = some f) (cfg : Config) :
    ∃ p base vs, i.asPacker = some p ∧ fieldValues cfg p = some (f, base, vs) ∧
      i.wellFormed cfg = p.wellFormed cfg := by
  cases i <;> cases h <;> exact ⟨_, _, _, rfl, rfl, rfl⟩

/-- Words packed from an instruction's fields are its words. -/
theorem encode_of_fieldValues {cfg : Config} {i : Instr} {p : Packer} {f : Format} {base : Word32} {vs : List Word32}
    (hp : i.asPacker = some p) (hv : fieldValues cfg p = some (f, base, vs)) :
    encode cfg i = some (formatWords f (packFields f base vs)) := by
  rw [encode, hp, Option.bind_some, encodePacker, hv, Option.map_some]

/-- A format has one halfword or two (R61). -/
theorem formatHalves_eq (f : Format) : formatHalves f = 1 ∨ formatHalves f = 2 := by
  cases f <;> decide

/-- The words of a format, read under its tag, are read as the word they were made of. -/
theorem decodeAs_formatWords {f : Format} {base w : Word32} {vs : List Word32} (h : Carries f base vs w)
    (hbase : formatHalves f = 1 → base.toNat < 2 ^ 16) (cfg : Config) :
    decodeAs cfg f (formatWords f w) = .ok (readFields cfg f w) := by
  rcases formatHalves_eq f with hf | hf
  · exact decodeAs_of_half hf cfg (h.setWidth_lo16 hf (hbase hf))
  · exact decodeAs_of_word hf cfg w

/-! ### The rules' formulas and the field tables (R62 to R71)

The machine packs by the rules' own formulas; each term of a formula is a value masked into its field. -/

/-- A field of low ones under a mask is a value in its field (R66). -/
theorem putSlot_eq_and (f : Slot) (v : Word32) : putSlot f v = (v &&& BitVec.ofNat 32 (2 ^ f.width - 1)) <<< f.lo := by
  refine BitVec.eq_of_getLsbD_eq fun n hn => ?_
  rw [getLsbD_putSlot, BitVec.getLsbD_shiftLeft, BitVec.getLsbD_and, getLsbD_mask]
  by_cases h : f.lo ≤ n
  · simp [hn, h, show n - f.lo < 32 by omega, show ¬n < f.lo by omega, Bool.and_comm]
  · simp [h, show n < f.lo by omega]

/-- A register in a 4-bit field (R65). -/
theorem reg32_shiftLeft (r : Reg) (lo : Nat) : reg32 r <<< lo = putSlot ⟨lo, 4⟩ (r.setWidth 32) := by
  have hr : (r.setWidth 32).setWidth 4 = r := by rw [BitVec.setWidth_setWidth_of_le r (by decide), BitVec.setWidth_eq]
  rw [putSlot, hr, reg32]

/-- A bit in its place (R70). -/
theorem bitAt_eq (b : Bool) (n : Nat) : bitAt b n = putSlot ⟨n, 1⟩ (bitValue b) := by
  cases b with
  | true => rfl
  | false => exact (BitVec.zero_shiftLeft n).symm

/-- imm12 in its three fields (R67). -/
theorem split12_eq (v : Imm) :
    split12 v = putSlot ⟨26, 1⟩ (v >>> 11) ||| putSlot ⟨12, 3⟩ (v >>> 8) ||| putSlot ⟨0, 8⟩ v := by
  simp only [putSlot_eq_and, BitVec.shiftLeft_zero]
  rfl

/-- imm5 in its two fields (R68). -/
theorem split5_eq (v : Imm) : split5 v = putSlot ⟨12, 3⟩ (v >>> 2) ||| putSlot ⟨6, 2⟩ v := by
  simp only [putSlot_eq_and]
  rfl

/-- The shift code in its field; NONE has no bits (R69). -/
theorem shiftCode_eq (shift : ShiftType) :
    ((shiftCode shift).getD 0).setWidth 32 <<< 4 = putSlot ⟨4, 2⟩ (shiftTableCode shift) := by
  cases shift <;> decide

/-- A displacement's fields in their places, the J bits given (R71, R141). -/
theorem placeBranch_eq (cfg : Config) (d : Disp) (j1 j2 : Bool) :
    placeBranch (dispFields cfg d) j1 j2 = putSlot ⟨26, 1⟩ (bitValue (d.getLsbD cfg.dispSBit.val)) |||
      putSlot ⟨16, 10⟩ (d >>> 12) ||| putSlot ⟨13, 1⟩ (bitValue j1) ||| putSlot ⟨11, 1⟩ (bitValue j2) |||
        putSlot ⟨0, 11⟩ (d >>> 1) := by
  have himm11 : putSlot ⟨0, 11⟩ (d >>> 1) = (dispFields cfg d).imm11.setWidth 32 := BitVec.shiftLeft_zero _
  rw [placeBranch, bitAt_eq, bitAt_eq, bitAt_eq, himm11]
  rfl

theorem lo16_setWidth (h : Half) : lo16 (h.setWidth 32) = h := setWidth_setWidth_half h

theorem lo16_or (v w : Word32) : lo16 (v ||| w) = lo16 v ||| lo16 w := BitVec.setWidth_or

/-- A low register in a 3-bit field (R65). -/
theorem reg16_shiftLeft_low {r : Reg} (hr : isLow r = true) (lo : Nat) :
    reg16 r <<< lo = lo16 (putSlot ⟨lo, 3⟩ (r.setWidth 32)) := by
  refine BitVec.eq_of_getLsbD_eq fun n hn => ?_
  rw [BitVec.getLsbD_shiftLeft, getLsbD_reg16, getLsbD_lo16, getLsbD_putSlot, ← reg32, getLsbD_reg32]
  by_cases h : n - lo < 3
  · simp only [hn, h, show n < 32 by omega, ← decide_not, Nat.not_lt, decide_true, Bool.true_and, Bool.and_true]
  · simp [h, getLsbD_low_ge hr (show 3 ≤ n - lo by omega), -BitVec.getLsbD_eq_getElem]

theorem reg16_low {r : Reg} (hr : isLow r = true) : reg16 r = lo16 (putSlot ⟨0, 3⟩ (r.setWidth 32)) := by
  rw [← reg16_shiftLeft_low hr, BitVec.shiftLeft_zero]

/-- Any register in the 4-bit field of a halfword (R107). -/
theorem reg16_shiftLeft_three (r : Reg) : reg16 r <<< 3 = lo16 (putSlot ⟨3, 4⟩ (r.setWidth 32)) := by
  revert r
  decide

/-- A register in two fields, its bit 3 displaced to bit 7 (R108). -/
theorem reg16_displaced (r : Reg) : reg16 r &&& 0x7 ||| (reg16 r >>> 3) <<< 7 =
    lo16 (putSlot ⟨7, 1⟩ (r.setWidth 32 >>> 3)) ||| lo16 (putSlot ⟨0, 3⟩ (r.setWidth 32)) := by
  revert r
  decide

/-- An immediate in a field of a halfword (R66). -/
theorem immField16_shiftLeft (width : Nat) (v : Imm) (lo : Nat) :
    immField16 width v <<< lo = lo16 (putSlot ⟨lo, width⟩ v) := by
  refine BitVec.eq_of_getLsbD_eq fun n hn => ?_
  rw [BitVec.getLsbD_shiftLeft, getLsbD_immField16, getLsbD_lo16, getLsbD_putSlot]
  simp only [hn, show n < 32 by omega, show n - lo < 16 by omega, ← decide_not, Nat.not_lt, decide_true, Bool.true_and,
    Bool.and_assoc]

theorem immField16_eq (width : Nat) (v : Imm) : immField16 width v = lo16 (putSlot ⟨0, width⟩ v) := by
  rw [← immField16_shiftLeft, BitVec.shiftLeft_zero]

/-! ### The errors of R80 -/

theorem isLow_iff_not (r : Reg) : isLow r = true ↔ ¬7 < r.toNat := by rw [isLow_iff, Nat.not_lt]

theorem isLow_and_isLow_iff (r₁ r₂ : Reg) : (isLow r₁ && isLow r₂) = true ↔ ¬(7 < r₁.toNat ∨ 7 < r₂.toNat) := by
  rw [Bool.and_eq_true, isLow_iff_not, isLow_iff_not, not_or]

theorem isLow_and_isLow_and_isLow_iff (r₁ r₂ r₃ : Reg) :
    (isLow r₁ && isLow r₂ && isLow r₃) = true ↔ ¬(7 < r₁.toNat ∨ 7 < r₂.toNat ∨ 7 < r₃.toNat) := by
  rw [Bool.and_eq_true, isLow_and_isLow_iff, isLow_iff_not, ← not_or, or_assoc]

/-- The pairs that warn are the crossed ones (R92). -/
theorem ambiguousPair_eq_crossedPair (shift : ShiftType) (v : Imm) : ambiguousPair shift v = crossedPair shift v := by
  cases shift with
  | ror => exact ambiguousPair_ror v
  | rrx => exact ambiguousPair_rrx v
  | lsl | lsr | asr | none => rfl

/-- A refused shift operand is an EncodeError (R130). -/
theorem withShift_of_refused {cfg : Config} {shift : ShiftType} {v : Imm} (h : shiftRefused cfg shift v) (w : Word32) :
    withShift cfg shift v w = .error .encodeError := by
  rw [shiftRefused, ← ambiguousPair_eq_crossedPair] at h
  rcases shiftBits_cases cfg shift v with ⟨hbits, -⟩ | ⟨-, hnone, hpair⟩
  · rw [withShift, hbits]
  · exact absurd h (not_or.2 ⟨hnone, hpair⟩)

/-- A shift operand that is not refused has its code placed (R130). -/
theorem withShift_of_not_refused {cfg : Config} {shift : ShiftType} {v : Imm} (h : ¬shiftRefused cfg shift v)
    (w : Word32) : withShift cfg shift v w = split32 (w ||| putSlot ⟨4, 2⟩ (shiftTableCode shift)) := by
  rw [shiftRefused, ← ambiguousPair_eq_crossedPair] at h
  rcases shiftBits_cases cfg shift v with ⟨-, hrefused⟩ | ⟨hbits, -, -⟩
  · exact absurd hrefused h
  · rw [withShift, hbits, ← shiftCode_eq]

/-- The table's rows for a shift operand: EncodeError where it is refused (R80, R130). -/
theorem tableError_shift (cfg : Config) (base : Word32) (rd rn : Reg) (v : Imm) (shift : ShiftType) (kind : ErrorKind) :
    tableError cfg (.t32TwoRegImm5Shift base rd rn v shift) = some kind ↔
      shiftRefused cfg shift v ∧ .encodeError = kind := by
  cases shift <;> simp [tableError, shiftRefused, crossedPair]

theorem tableError_shift_none (cfg : Config) (base : Word32) (rd rn : Reg) (v : Imm) (shift : ShiftType) :
    tableError cfg (.t32TwoRegImm5Shift base rd rn v shift) = none ↔ ¬shiftRefused cfg shift v := by
  cases shift <;> simp [tableError, shiftRefused, crossedPair]

/-- Where the table of R80 has an error, the packer returns it. -/
theorem pack_of_tableError {cfg : Config} {i : Instr} {p : Packer} {kind : ErrorKind} (hp : i.asPacker = some p)
    (h : tableError cfg i = some kind) : pack cfg p = .error kind := by
  cases i with
  | t16ImmOther base width imm =>
    cases hp
    have hwidth : ¬(width = 7 ∨ width = 8 ∨ width = 11) ∧ .encodeError = kind := by simpa [tableError] using h
    obtain ⟨hwidth, rfl⟩ := hwidth
    rw [pack, packT16Imm, if_neg hwidth]
  | t16RegImm8 base rd imm8 | movImm rd imm8 =>
    cases hp
    obtain ⟨hrd, rfl⟩ : 7 < rd.toNat ∧ .registerOutOfRange = kind := by simpa [tableError] using h
    exact if_neg (mt (isLow_iff_not rd).1 (not_not_intro hrd))
  | t16RegImm5 base rd rm imm | t16TwoLow base rd rm | t16TwoLowImm3 base rd rm imm =>
    cases hp
    obtain ⟨hregs, rfl⟩ : (7 < rd.toNat ∨ 7 < rm.toNat) ∧ .registerOutOfRange = kind := by simpa [tableError] using h
    exact if_neg (mt (isLow_and_isLow_iff rd rm).1 (not_not_intro hregs))
  | t16ThreeLow base rd rn rm | addThreeLow rd rn rm =>
    cases hp
    obtain ⟨hregs, rfl⟩ : (7 < rd.toNat ∨ 7 < rn.toNat ∨ 7 < rm.toNat) ∧ .registerOutOfRange = kind := by
      simpa [tableError] using h
    exact if_neg (mt (isLow_and_isLow_and_isLow_iff rd rn rm).1 (not_not_intro hregs))
  | t32TwoRegImm5Shift base rd rn imm5 shift | t32TwoRegImm5ShiftSf base rd rn imm5 shift sf
  | t32ThreeRegImm5ShiftSf base rd rn rm imm5 shift sf =>
    cases hp
    obtain ⟨hrefused, rfl⟩ := (tableError_shift cfg base rd rn imm5 shift kind).1 h
    exact withShift_of_refused hrefused _
  | _ => cases h

/-! ### The opcode of a format -/

/-- The opcode of a format's word. -/
def formatOpcode (f : Format) (w : Word32) : Opcode :=
  if formatHalves f = 1 then .thumb16 (lo16 w) else split32 w

/-- An opcode of a format has its words. -/
theorem wordsOf_formatOpcode (f : Format) (w : Word32) : wordsOf (formatOpcode f w) = some (formatWords f w) := by
  rw [formatOpcode, formatWords]
  split <;> rfl

theorem formatOpcode_half {f : Format} (hf : formatHalves f = 1) (w : Word32) : formatOpcode f w = .thumb16 (lo16 w) :=
  if_pos hf

theorem formatOpcode_word {f : Format} (hf : formatHalves f = 2) (w : Word32) :
    formatOpcode f w = .thumb32 (hi16 w) (lo16 w) := by
  rw [formatOpcode, hf, if_neg (by decide), split32_eq]

theorem formatOpcode_ne_error (f : Format) (w : Word32) (kind : ErrorKind) : formatOpcode f w ≠ .error kind := by
  rcases formatHalves_eq f with hf | hf
  · rw [formatOpcode_half hf]
    exact nofun
  · rw [formatOpcode_word hf]
    exact nofun

/-- Values packed one after the other over a word. -/
def packOver (w : Word32) : List Slot → List Word32 → Word32
  | f :: fs, v :: vs => packOver (w ||| putSlot f v) fs vs
  | [], _ => w
  | _ :: _, [] => w

theorem or_packed_eq_packOver (w : Word32) (fs : List Slot) (vs : List Word32) :
    w ||| orAll (List.zipWith putSlot fs vs) = packOver w fs vs := by
  induction fs generalizing w vs with
  | nil => exact BitVec.or_zero
  | cons f fs ih =>
    cases vs with
    | nil => exact BitVec.or_zero
    | cons v vs => rw [List.zipWith_cons_cons, orAll, ← BitVec.or_assoc, ih, packOver]

/-- The packing law, a value at a time (R62). -/
theorem packFields_eq (f : Format) (base : Word32) (vs : List Word32) :
    packFields f base vs = packOver base (formatSlots f) vs := or_packed_eq_packOver base (formatSlots f) vs

/-! ### The packers and the field tables -/

/-- A packer command returns the word that the field tables give for its format (R62 to R64). -/
def FollowsTable (cfg : Config) (p : Packer) : Prop :=
  ∃ f base vs, fieldValues cfg p = some (f, base, vs) ∧ pack cfg p = formatOpcode f (packFields f base vs)

theorem followsTable_half {cfg : Config} {p : Packer} {f : Format} {base : Word32} {vs : List Word32}
    (hv : fieldValues cfg p = some (f, base, vs)) (hf : formatHalves f = 1)
    (hpack : pack cfg p = .thumb16 (lo16 (packOver base (formatSlots f) vs))) : FollowsTable cfg p :=
  ⟨f, base, vs, hv, by rw [hpack, formatOpcode_half hf, packFields_eq]⟩

theorem followsTable_word {cfg : Config} {p : Packer} {f : Format} {base : Word32} {vs : List Word32}
    (hv : fieldValues cfg p = some (f, base, vs)) (hf : formatHalves f = 2)
    (hpack : pack cfg p = split32 (packOver base (formatSlots f) vs)) : FollowsTable cfg p :=
  ⟨f, base, vs, hv, by rw [hpack, formatOpcode_word hf, packFields_eq, split32_eq]⟩

/-- `T16.imm` of a width that has a format (R101). -/
theorem followsTable_t16Imm (cfg : Config) (base : Half) {width : Nat} (h : width = 7 ∨ width = 8 ∨ width = 11)
    (imm : Imm) : FollowsTable cfg (.t16Imm base width imm) := by
  rcases h with rfl | rfl | rfl <;>
  · refine followsTable_half rfl rfl ?_
    simp only [pack, packT16Imm, formatSlots, packOver, lo16_or, lo16_setWidth, immField16_eq, true_or, or_true,
      if_true]

/-- `T16.reg_imm8` with a low register (R102). -/
theorem followsTable_t16RegImm8 (cfg : Config) (base : Half) {rd : Reg} (hrd : isLow rd = true) (imm8 : Imm) :
    FollowsTable cfg (.t16RegImm8 base rd imm8) := by
  refine followsTable_half rfl rfl ?_
  simp only [pack, packT16RegImm8, hrd, if_true, formatSlots, packOver, lo16_or, lo16_setWidth,
    ← reg16_shiftLeft_low hrd, ← immField16_eq]

/-- The formats of two low registers: `T16.reg_imm5`, `T16.two_low` and `T16.two_low_imm3` (R103, R104, R106). -/
theorem followsTable_two_low (cfg : Config) (base : Half) {rd rm : Reg} (h : (isLow rd && isLow rm) = true)
    (imm : Imm) : FollowsTable cfg (.t16RegImm5 base rd rm imm) ∧ FollowsTable cfg (.t16TwoLow base rd rm) ∧
      FollowsTable cfg (.t16TwoLowImm3 base rd rm imm) := by
  obtain ⟨hrd, hrm⟩ := Bool.and_eq_true_iff.1 h
  refine ⟨followsTable_half rfl rfl ?_, followsTable_half rfl rfl ?_, followsTable_half rfl rfl ?_⟩ <;>
  simp only [pack, packT16RegImm5, packT16TwoLow, packT16TwoLowImm3, h, if_true, formatSlots, packOver, lo16_or,
    lo16_setWidth, ← reg16_low hrd, ← reg16_shiftLeft_low hrm, ← immField16_shiftLeft]

/-- `T16.three_low` with low registers (R105). -/
theorem followsTable_t16ThreeLow (cfg : Config) (base : Half) {rd rn rm : Reg}
    (h : (isLow rd && isLow rn && isLow rm) = true) : FollowsTable cfg (.t16ThreeLow base rd rn rm) := by
  obtain ⟨⟨hrd, hrn⟩, hrm⟩ : (isLow rd = true ∧ isLow rn = true) ∧ isLow rm = true := by
    simpa only [Bool.and_eq_true] using h
  refine followsTable_half rfl rfl ?_
  simp only [pack, packT16ThreeLow, h, if_true, formatSlots, packOver, lo16_or, lo16_setWidth, ← reg16_low hrd,
    ← reg16_shiftLeft_low hrn, ← reg16_shiftLeft_low hrm]

/-- `T16.two_any` (R108). -/
theorem followsTable_t16TwoAny (cfg : Config) (base : Half) (r1 r2 : Reg) :
    FollowsTable cfg (.t16TwoAny base r1 r2) := by
  refine followsTable_half rfl rfl ?_
  rw [pack, packT16TwoAny, BitVec.or_assoc base, reg16_displaced, ← BitVec.or_assoc]
  simp only [formatSlots, packOver, lo16_or, lo16_setWidth, ← reg16_shiftLeft_three]

/-- The `sf` bit may be placed last, where R128 and R129 place it before the other fields (R70). -/
theorem or_putSlot_sf (w v : Word32) (b : Word32) : w ||| putSlot ⟨20, 1⟩ b ||| v = w ||| v ||| putSlot ⟨20, 1⟩ b := by
  rw [BitVec.or_assoc, BitVec.or_comm _ v, BitVec.or_assoc]

/-- The formats with a shift operand, where it is not refused (R125, R126, R129). -/
theorem followsTable_shift {cfg : Config} {shift : ShiftType} {imm5 : Imm} (h : ¬shiftRefused cfg shift imm5)
    (base : Word32) (rd rn rm : Reg) (sf : Bool) :
    FollowsTable cfg (.t32TwoRegImm5Shift base rd rn imm5 shift) ∧
      FollowsTable cfg (.t32TwoRegImm5ShiftSf base rd rn imm5 shift sf) ∧
      FollowsTable cfg (.t32ThreeRegImm5ShiftSf base rd rn rm imm5 shift sf) := by
  refine ⟨followsTable_word rfl rfl ?_, followsTable_word rfl rfl ?_, followsTable_word rfl rfl ?_⟩ <;>
  simp only [pack, packT32TwoRegImm5Shift, packT32TwoRegImm5ShiftSf, packT32ThreeRegImm5ShiftSf,
    withShift_of_not_refused h, formatSlots, imm5Values, List.cons_append, List.nil_append, packOver, ← reg32_shiftLeft,
    BitVec.shiftLeft_zero, split5_eq, sfBit, bitAt_eq, ← BitVec.or_assoc, or_putSlot_sf]

/-- The two branch formats (R142, R143). -/
theorem followsTable_branch (cfg : Config) (base : Word32) (d : Disp) :
    FollowsTable cfg (.t32Branch base d) ∧ FollowsTable cfg (.t32CondBranch base d) := by
  refine ⟨followsTable_word rfl rfl ?_, followsTable_word rfl rfl ?_⟩ <;>
  · simp only [pack, packT32Branch, packT32CondBranch, placeBranch_eq, formatSlots, dispValues, packOver,
      ← BitVec.or_assoc]
    rfl

/-- Where the table of R80 has no error, the packer follows the field tables (R62 to R64). -/
theorem followsTable_of_no_tableError {cfg : Config} {i : Instr} {p : Packer} (hp : i.asPacker = some p)
    (h : tableError cfg i = none) : FollowsTable cfg p := by
  cases i with
  | t16Imm7 base imm =>
    cases hp
    exact followsTable_t16Imm cfg base (.inl rfl) imm
  | t16Imm8 base imm =>
    cases hp
    exact followsTable_t16Imm cfg base (.inr (.inl rfl)) imm
  | t16Imm11 base imm =>
    cases hp
    exact followsTable_t16Imm cfg base (.inr (.inr rfl)) imm
  | t16ImmOther base width imm =>
    cases hp
    have hwidth : width ∈ [7, 8, 11] := by_contra fun hw => by simp only [tableError, if_neg hw, reduceCtorEq] at h
    exact followsTable_t16Imm cfg base (by simpa using hwidth) imm
  | t16RegImm8 base rd imm8 | movImm rd imm8 =>
    cases hp
    exact followsTable_t16RegImm8 cfg _ ((isLow_iff_not rd).2 (by simpa [tableError] using h)) imm8
  | t16RegImm5 base rd rm imm =>
    cases hp
    exact (followsTable_two_low cfg base ((isLow_and_isLow_iff rd rm).2 (by simpa [tableError] using h)) imm).1
  | t16TwoLow base rd rm =>
    cases hp
    exact (followsTable_two_low cfg base ((isLow_and_isLow_iff rd rm).2 (by simpa [tableError] using h)) 0).2.1
  | t16TwoLowImm3 base rd rm imm =>
    cases hp
    exact (followsTable_two_low cfg base ((isLow_and_isLow_iff rd rm).2 (by simpa [tableError] using h)) imm).2.2
  | t16ThreeLow base rd rn rm | addThreeLow rd rn rm =>
    cases hp
    exact followsTable_t16ThreeLow cfg _ ((isLow_and_isLow_and_isLow_iff rd rn rm).2 (by simpa [tableError] using h))
  | t16TwoAny base r1 r2 =>
    cases hp
    exact followsTable_t16TwoAny cfg base r1 r2
  | t16NoOperand | t16OneAny =>
    cases hp
    refine followsTable_half rfl rfl ?_
    simp only [pack, packT16NoOperand, packT16OneAny, formatSlots, packOver, lo16_or, lo16_setWidth,
      ← reg16_shiftLeft_three]
  | t32NoOperand | t32OneRegImm12 | t32TwoRegImm12 | t32TwoRegImm12Sf | t32TwoRegImm5Sf | t32ThreeReg | t32ThreeRegSf =>
    cases hp
    refine followsTable_word rfl rfl ?_
    simp only [pack, packT32NoOperand, packT32OneRegImm12, packT32TwoRegImm12, packT32TwoRegImm12Sf,
      packT32TwoRegImm5Sf, packT32ThreeReg, packT32ThreeRegSf, formatSlots, imm12Values, imm5Values, List.cons_append,
      List.nil_append, packOver, ← reg32_shiftLeft, BitVec.shiftLeft_zero, split12_eq, split5_eq, sfBit, bitAt_eq,
      ← BitVec.or_assoc]
  | t32TwoRegImm5Shift base rd rn imm5 shift =>
    cases hp
    exact (followsTable_shift ((tableError_shift_none cfg base rd rn imm5 shift).1 h) base rd rn 0 false).1
  | t32TwoRegImm5ShiftSf base rd rn imm5 shift sf =>
    cases hp
    exact (followsTable_shift ((tableError_shift_none cfg base rd rn imm5 shift).1 h) base rd rn 0 sf).2.1
  | t32ThreeRegImm5ShiftSf base rd rn rm imm5 shift sf =>
    cases hp
    exact (followsTable_shift ((tableError_shift_none cfg base rd rn imm5 shift).1 h) base rd rn rm sf).2.2
  | t32Branch base d =>
    cases hp
    exact (followsTable_branch cfg base d).1
  | t32CondBranch base d =>
    cases hp
    exact (followsTable_branch cfg base d).2
  | create | append | drain | emit => cases hp

/-- The T16 commands are those whose format is of one halfword (R61). -/
theorem isT16_iff {cfg : Config} {i : Instr} {p : Packer} {f : Format} {base : Word32} {vs : List Word32}
    (hp : i.asPacker = some p) (hv : fieldValues cfg p = some (f, base, vs)) : isT16 i = true ↔ formatHalves f = 1 := by
  cases i with
  | t16ImmOther b width imm =>
    cases hp
    obtain ⟨-, -, ⟨-, rfl⟩ | ⟨-, rfl⟩ | ⟨-, rfl⟩⟩ := fieldValues_t16Imm hv <;> exact iff_of_true rfl rfl
  | create | append | drain | emit => cases hp
  | _ =>
    cases hp
    cases hv
    simp [isT16, formatHalves]

/-! ### The crossed pairs under `preserve` (R69, R130) -/

/-- ROR and RRX have one code, and under `preserve` neither is refused. -/
theorem withShift_ror_eq_rrx {cfg : Config} (h : cfg.shiftPairPolicy = .preserve) (v : Imm) (w : Word32) :
    withShift cfg .ror v w = withShift cfg .rrx v w := by
  have hror : ¬shiftRefused cfg .ror v := by simp [shiftRefused, h]
  have hrrx : ¬shiftRefused cfg .rrx v := by simp [shiftRefused, h]
  rw [withShift_of_not_refused hror, withShift_of_not_refused hrrx]
  rfl

/-- Exactly one of ROR and RRX is crossed with an amount (R92). -/
theorem ambiguousPair_rrx_eq_not_ror (v : Imm) : ambiguousPair .rrx v = !ambiguousPair .ror v := by
  rw [ambiguousPair_rrx, ambiguousPair_ror, bne]

/-! ### Halfwords and the fields they carry -/

/-- A halfword outside some bits, as a halfword and as a word. -/
theorem setWidth_and_not_eq_iff (h b : Half) (m : Word32) :
    h.setWidth 32 &&& ~~~m = b.setWidth 32 ↔ h &&& ~~~m.setWidth 16 = b := by
  have hhalf : h.setWidth 32 &&& ~~~m = (h &&& ~~~m.setWidth 16).setWidth 32 := by
    refine BitVec.eq_of_getLsbD_eq fun n hn => ?_
    by_cases hlow : n < 16
    · simp [hn, hlow, -BitVec.getLsbD_eq_getElem]
    · simp [BitVec.getLsbD_of_ge h n (by omega), -BitVec.getLsbD_eq_getElem]
  rw [hhalf]
  refine ⟨fun heq => ?_, congrArg _⟩
  rw [← setWidth_setWidth_half (h &&& _), heq, setWidth_setWidth_half]

/-- A field as a number (R7). -/
theorem toNat_getSlot (lo : Nat) {width : Nat} (hw : width ≤ 32) (w : Word32) :
    (getSlot lo width w).toNat = w.toNat >>> lo % 2 ^ width := by
  rw [getSlot, BitVec.toNat_setWidth_of_le hw, BitVec.extractLsb'_toNat]

/-- The number in a field of a halfword that holds a masked value. -/
theorem toNat_extractLsb'_of_getSlot {lo width : Nat} {h : Half} {v : Word32}
    (heq : getSlot lo width (h.setWidth 32) = getSlot 0 width v) (hw : width ≤ 32) :
    (h.extractLsb' lo width).toNat = v.toNat % 2 ^ width := by
  have hnat := congrArg BitVec.toNat heq
  rwa [toNat_getSlot lo hw, toNat_getSlot 0 hw, BitVec.toNat_setWidth_of_le (by decide), Nat.shiftRight_zero,
    ← BitVec.extractLsb'_toNat] at hnat

/-- The number in a field of a halfword that holds a low register (R65). -/
theorem toNat_extractLsb'_of_low {lo : Nat} {h : Half} {r : Reg} (hr : r.toNat ≤ 7)
    (heq : getSlot lo 3 (h.setWidth 32) = getSlot 0 3 (r.setWidth 32)) : (h.extractLsb' lo 3).toNat = r.toNat := by
  rw [toNat_extractLsb'_of_getSlot heq (by decide), BitVec.toNat_setWidth_of_le (by decide)]
  exact Nat.mod_eq_of_lt (Nat.lt_succ_of_le hr)

/-- A field that a mask covers, of a halfword whose bits under the mask are known. -/
theorem extractLsb'_of_and_eq {lo width : Nat} {h m b : Half} (heq : h &&& m = b)
    (hm : m.extractLsb' lo width = BitVec.allOnes width) : h.extractLsb' lo width = b.extractLsb' lo width := by
  rw [← heq, BitVec.extractLsb'_and, hm, BitVec.and_allOnes]

/-- A 16-bit packer command without an error, its base zero in the fields, returns a halfword that carries its base and
its values, and that halfword is its encoding. -/
theorem exists_half_carries {cfg : Config} {i : Instr} {p : Packer} {f : Format} {base : Word32} {vs : List Word32}
    (hp : i.asPacker = some p) (hv : fieldValues cfg p = some (f, base, vs)) (hok : tableError cfg i = none)
    (hf : formatHalves f = 1) (hclear : base &&& f.operandMask = 0) :
    ∃ w : Half, pack cfg p = .thumb16 w ∧ encode cfg i = some [w] ∧ Carries f base vs (w.setWidth 32) := by
  obtain ⟨f', base', vs', hv', hpack⟩ := followsTable_of_no_tableError hp hok
  cases hv.symm.trans hv'
  have hcarries := packFields_carries hclear vs
  refine ⟨lo16 (packFields f base vs), hpack.trans (formatOpcode_half hf _), ?_, ?_⟩
  · rw [encode_of_fieldValues hp hv, formatWords, if_pos hf]
  · rwa [hcarries.setWidth_lo16 hf (fieldValues_base_lt hv hf)]

/-! ### The known mnemonics (R84) -/

/-- `mov rd,#imm8` with a low register: the fixed bits, the register and the immediate of its halfword. -/
theorem movImm_word (cfg : Config) {rd : Reg} (hrd : rd.toNat ≤ 7) (imm8 : Imm) :
    ∃ w : Half, pack cfg (.t16RegImm8 0x2000 rd imm8) = .thumb16 w ∧ encode cfg (.movImm rd imm8) = some [w] ∧
      w &&& 0xF800 = 0x2000 ∧ getSlot 8 3 (w.setWidth 32) = getSlot 0 3 (rd.setWidth 32) ∧
      getSlot 0 8 (w.setWidth 32) = getSlot 0 8 imm8 := by
  have hok : tableError cfg (.movImm rd imm8) = none := if_neg (Nat.not_lt.2 hrd)
  obtain ⟨w, hpack, henc, hbase, hd, himm8, -⟩ := exists_half_carries (i := .movImm rd imm8) rfl rfl hok rfl (by decide)
  exact ⟨w, hpack, henc, (setWidth_and_not_eq_iff w 0x2000 _).1 hbase, hd, himm8⟩

/-- `add rd,rn,rm` with low registers: the fixed bits and the registers of its halfword. -/
theorem addThreeLow_word (cfg : Config) {rd rn rm : Reg} (hrd : rd.toNat ≤ 7) (hrn : rn.toNat ≤ 7)
    (hrm : rm.toNat ≤ 7) : ∃ w : Half, pack cfg (.t16ThreeLow 0x1800 rd rn rm) = .thumb16 w ∧
      encode cfg (.addThreeLow rd rn rm) = some [w] ∧
      w &&& 0xFE00 = 0x1800 ∧ getSlot 0 3 (w.setWidth 32) = getSlot 0 3 (rd.setWidth 32) ∧
      getSlot 3 3 (w.setWidth 32) = getSlot 0 3 (rn.setWidth 32) ∧
      getSlot 6 3 (w.setWidth 32) = getSlot 0 3 (rm.setWidth 32) := by
  have hok : tableError cfg (.addThreeLow rd rn rm) = none := if_neg (by omega)
  obtain ⟨w, hpack, henc, hbase, hd, hn, hm, -⟩ :=
    exists_half_carries (i := .addThreeLow rd rn rm) rfl rfl hok rfl (by decide)
  exact ⟨w, hpack, henc, (setWidth_and_not_eq_iff w 0x1800 _).1 hbase, hd, hn, hm⟩

/-! ### Decoding without a format tag -/

/-- The bytes of an image, low byte first, are read back as its halfwords (R41). -/
theorem halvesOfBytes_serialise (words : List Half) : halvesOfBytes (serialise .little words) = .ok words := by
  induction words with
  | nil => rfl
  | cons h hs ih =>
    have hjoin : ((h >>> 8).setWidth 8).setWidth 16 <<< 8 ||| (h.setWidth 8).setWidth 16 = h := by
      refine BitVec.eq_of_getLsbD_eq fun n hn => ?_
      interval_cases n <;> simp [-BitVec.getLsbD_eq_getElem]
    simp only [serialise, halfBytes, List.cons_append, List.nil_append, halvesOfBytes, ih, hjoin]

theorem decode_serialise (words : List Half) : decode (serialise .little words) = decodeWords words := by
  rw [decode, halvesOfBytes_serialise]

/-- A halfword of the pattern of `mov imm` decodes to it (R84). -/
theorem decodeHalf_movImm {h : Half} (hbits : h &&& 0xF800 = 0x2000) :
    decodeHalf h = .movImm (readReg 8 3 (h.setWidth 32)) (getSlot 0 8 (h.setWidth 32)) := if_pos hbits

/-- A halfword of the pattern of `add three-low`, which is not that of `mov imm`, decodes to it (R84). -/
theorem decodeHalf_addThreeLow {h : Half} (hbits : h &&& 0xFE00 = 0x1800) : decodeHalf h =
    .addThreeLow (readReg 0 3 (h.setWidth 32)) (readReg 3 3 (h.setWidth 32)) (readReg 6 3 (h.setWidth 32)) := by
  have hnot : h &&& 0xF800 ≠ 0x2000 := by
    have hsub : h &&& 0xF800 = h &&& 0xFE00 &&& 0xF800 := by rw [BitVec.and_assoc]; rfl
    rw [hsub, hbits]
    decide
  rw [decodeHalf, if_neg hnot, if_pos hbits]

theorem lowOperand_iff (r : Reg) : lowOperand r = true ↔ r.toNat ≤ 7 := by
  rw [lowOperand, decide_eq_true_eq, Nat.lt_succ_iff]

/-- A register read from a 3-bit field is low. -/
theorem readReg_three_le (lo : Nat) (w : Word32) : (readReg lo 3 w).toNat ≤ 7 := by
  rw [readReg, BitVec.toNat_setWidth, toNat_getSlot lo (by decide)]
  omega

/-- A value read from a field fits it. -/
theorem fits_getSlot (lo : Nat) {width : Nat} (hw : width ≤ 32) (w : Word32) :
    fits width (getSlot lo width w) = true := by
  rw [fits, decide_eq_true_eq, toNat_getSlot lo hw]
  exact Nat.mod_lt _ (Nat.two_pow_pos width)

/-- The field of a register read from it. -/
theorem getSlot_readReg_three (lo : Nat) (w : Word32) :
    getSlot lo 3 w = getSlot 0 3 ((readReg lo 3 w).setWidth 32) := by
  refine BitVec.eq_of_toNat_eq ?_
  rw [readReg, toNat_getSlot 0 (by decide), BitVec.toNat_setWidth_of_le (by decide), BitVec.toNat_setWidth,
    toNat_getSlot lo (by decide)]
  omega

theorem hi16_joinHalves (hi lo : Half) : hi16 (joinHalves hi lo) = hi := by
  refine BitVec.eq_of_getLsbD_eq fun n hn => ?_
  rw [getLsbD_hi16, joinHalves]
  simp [hn, show n < 32 by omega, show 16 + n < 32 by omega, -BitVec.getLsbD_eq_getElem]

theorem lo16_joinHalves (hi lo : Half) : lo16 (joinHalves hi lo) = lo := by
  refine BitVec.eq_of_getLsbD_eq fun n hn => ?_
  rw [getLsbD_lo16, joinHalves]
  simp [hn, show n < 32 by omega, -BitVec.getLsbD_eq_getElem]

/-! ### Packing what was read -/

/-- A value masked to the width of its field is placed as the value is (R62). -/
theorem putSlot_masked (f : Slot) (v : Word32) : putSlot f (getSlot 0 f.width v) = putSlot f v := by
  refine BitVec.eq_of_getLsbD_eq fun n hn => ?_
  rw [getLsbD_putSlot, getLsbD_putSlot, getLsbD_getSlot, Nat.zero_add, decide_eq_true (show n - f.lo < 32 by omega),
    Bool.true_and, Bool.and_assoc, ← Bool.and_assoc (decide (n - f.lo < f.width)), Bool.and_self, ← Bool.and_assoc]

/-- Values that a word's fields hold, packed, are what the fields cover of the word. -/
theorem packed_of_holdsFields {w : Word32} {fs : List Slot} {vs : List Word32} (h : HoldsFields w fs vs)
    (hlen : vs.length = fs.length) : orAll (List.zipWith putSlot fs vs) = w &&& orAll (fs.map slotMask) := by
  induction fs generalizing vs with
  | nil => exact BitVec.and_zero.symm
  | cons f fs ih =>
    cases vs with
    | nil => cases hlen
    | cons v vs =>
      obtain ⟨hf, hfs⟩ := h
      have hput : putSlot f v = w &&& slotMask f := by
        rw [← putSlot_getSlot, hf, putSlot_masked]
      rw [List.zipWith_cons_cons, orAll, List.map_cons, orAll, BitVec.and_or_distrib_left, hput,
        ih hfs (Nat.succ.inj hlen)]

/-- A word is packed from what it carries. -/
theorem Carries.eq_packFields {f : Format} {base w : Word32} {vs : List Word32} (h : Carries f base vs w)
    (hlen : vs.length = (formatSlots f).length) : packFields f base vs = w := by
  rw [packFields, packed_of_holdsFields h.fields hlen, ← formatMask, formatMask_eq, BitVec.or_comm, ← h.base,
    and_or_and_not]

/-- A 16-bit packer command without an error returns the halfword that carries its base and its values. -/
theorem pack_eq_of_carries {cfg : Config} {i : Instr} {p : Packer} {f : Format} {base : Word32} {vs : List Word32}
    {h : Half} (hp : i.asPacker = some p) (hv : fieldValues cfg p = some (f, base, vs)) (hok : tableError cfg i = none)
    (hf : formatHalves f = 1) (hcarries : Carries f base vs (h.setWidth 32))
    (hlen : vs.length = (formatSlots f).length) : pack cfg p = .thumb16 h := by
  obtain ⟨f', base', vs', hv', hpack⟩ := followsTable_of_no_tableError hp hok
  cases hv.symm.trans hv'
  rw [hpack, formatOpcode_half hf, hcarries.eq_packFields hlen, lo16_setWidth]

/-- What a halfword decodes to without a format tag is well-formed and packs to that halfword, without a warning. -/
theorem decodeHalf_packs (cfg : Config) (h : Half) : (decodeHalf h).wellFormed cfg = true ∧
    ∃ p, (decodeHalf h).asPacker = some p ∧ pack cfg p = .thumb16 h ∧ warnShiftPair p = false := by
  have hlow (lo : Nat) := (lowOperand_iff _).2 (readReg_three_le lo (h.setWidth 32))
  have hle (lo : Nat) := Nat.not_lt.2 (readReg_three_le lo (h.setWidth 32))
  by_cases hmov : h &&& 0xF800 = 0x2000
  · have hfits := fits_getSlot 0 (show 8 ≤ 32 by decide) (h.setWidth 32)
    rw [decodeHalf_movImm hmov]
    refine ⟨Bool.and_eq_true_iff.2 ⟨hlow 8, hfits⟩, _, rfl, ?_, rfl⟩
    refine pack_eq_of_carries (i := .movImm _ _) rfl rfl (if_neg (hle 8)) rfl ⟨?_, ?_⟩ rfl
    · exact (setWidth_and_not_eq_iff h 0x2000 _).2 hmov
    · exact ⟨getSlot_readReg_three 8 _, (getSlot_of_fits hfits).symm, trivial⟩
  by_cases hadd : h &&& 0xFE00 = 0x1800
  · rw [decodeHalf_addThreeLow hadd]
    refine ⟨?_, _, rfl, ?_, rfl⟩
    · rw [Instr.wellFormed, hlow, hlow, hlow]
      rfl
    refine pack_eq_of_carries (i := .addThreeLow _ _ _) rfl rfl (if_neg ?_) rfl ⟨?_, ?_⟩ rfl
    · exact not_or.2 ⟨hle 0, not_or.2 ⟨hle 3, hle 6⟩⟩
    · exact (setWidth_and_not_eq_iff h 0x1800 _).2 hadd
    · exact ⟨getSlot_readReg_three 0 _, getSlot_readReg_three 3 _, getSlot_readReg_three 6 _, trivial⟩
  · rw [decodeHalf, if_neg hmov, if_neg hadd]
    exact ⟨rfl, _, rfl, rfl, rfl⟩

/-! ### Answers of packer commands -/

theorem answers_of_pack {i : Instr} {p : Packer} {s : State} {o : Opcode} {warn : Bool} (hp : i.asPacker = some p)
    (hpack : pack s.cfg p = o) (hwarn : warnShiftPair p = warn) : answers i s (.opcode o) warn := by
  rw [← hpack, ← hwarn]
  exact answers_pack hp s

theorem answersError_of_tableError {i : Instr} {p : Packer} {s : State} {kind : ErrorKind} {warn : Bool}
    (hp : i.asPacker = some p) (h : tableError s.cfg i = some kind) (hwarn : warnShiftPair p = warn) :
    answersError i s kind warn :=
  answers_of_pack hp (pack_of_tableError hp h) hwarn

end Sys2Proof

namespace Sys2Proof.Proofs

open Sys2Proof.Machine Sys2Proof.Spec

/-- Settles O32: the word packed over a base that is zero in the fields carries the base and every value, and each
operand is read back from its own fields. -/
theorem decodeUndoesEncode : Obligations.DecodeUndoesEncode := by
  intro cfg i f hwf hf
  obtain ⟨p, base, vs, hp, hv, hpwf⟩ := packer_of_formatOf hf cfg
  have hcarries := packFields_carries (base_clear_of_wellFormed (hpwf ▸ hwf) hv) vs
  refine ⟨_, encode_of_fieldValues hp hv, ?_⟩
  rw [decodeAs_formatWords hcarries (fieldValues_base_lt hv), readFields_of_carries hwf hf hp hv hcarries]

/-- Settles O27: where the table has an error the packer returns it, and where it has none the packer returns the opcode
of a format. -/
theorem packerErrorsAreExactlyTheTable : Obligations.PackerErrorsAreExactlyTheTable := by
  intro s i p hp
  refine ⟨pack s.cfg p, warnShiftPair p, answers_pack hp s, fun kind => ?_⟩
  cases h : tableError s.cfg i with
  | some kind' => rw [pack_of_tableError hp h, Opcode.error.injEq, Option.some.injEq]
  | none =>
    obtain ⟨f, base, vs, -, hpack⟩ := followsTable_of_no_tableError hp h
    rw [hpack]
    exact iff_of_false (formatOpcode_ne_error f _ kind) nofun

/-- Settles O28: an opcode that is no error is one of the command's format, whose length the family decides. -/
theorem lengthFollowsTheFamily : Obligations.LengthFollowsTheFamily := by
  intro s i p hp
  refine ⟨pack s.cfg p, warnShiftPair p, answers_pack hp s, ?_⟩
  cases h : tableError s.cfg i with
  | some kind => exact .inl ⟨kind, pack_of_tableError hp h⟩
  | none =>
    obtain ⟨f, base, vs, hv, hpack⟩ := followsTable_of_no_tableError hp h
    have hfamily := isT16_iff hp hv
    rcases formatHalves_eq f with hf | hf
    · exact .inr (.inl ⟨hfamily.2 hf, _, hpack.trans (formatOpcode_half hf _)⟩)
    · have hnot : isT16 i = false := Bool.eq_false_iff.2 (mt hfamily.1 (by rw [hf]; decide))
      exact .inr (.inr ⟨hnot, _, _, hpack.trans (formatOpcode_word hf _)⟩)

/-- Settles O31: where the table of R80 has no error, the packer's formula gives the word of the field tables. -/
theorem packersFollowTheFieldTables : Obligations.PackersFollowTheFieldTables := by
  intro s i p hp
  refine ⟨pack s.cfg p, warnShiftPair p, answers_pack hp s, ?_⟩
  cases h : tableError s.cfg i with
  | some kind => exact .inl ⟨kind, pack_of_tableError hp h⟩
  | none =>
    obtain ⟨f, base, vs, hv, hpack⟩ := followsTable_of_no_tableError hp h
    exact .inr (by rw [hpack, wordsOf_formatOpcode, encode_of_fieldValues hp hv])

/-- Settles O30: ROR and RRX share the code 11, and an amount makes exactly one of them a crossed pair. -/
theorem rorAndRrxShareTheirWord : Obligations.RorAndRrxShareTheirWord := by
  intro s base rd rn rm imm5 sf hpolicy
  have hword (w : Word32) := (withShift_ror_eq_rrx hpolicy imm5 w).symm
  have hwarn := ambiguousPair_rrx_eq_not_ror imm5
  refine ⟨pack s.cfg (.t32TwoRegImm5Shift base rd rn imm5 .ror),
    pack s.cfg (.t32TwoRegImm5ShiftSf base rd rn imm5 .ror sf),
    pack s.cfg (.t32ThreeRegImm5ShiftSf base rd rn rm imm5 .ror sf), ambiguousPair .ror imm5, ?_⟩
  exact ⟨answers_of_pack rfl rfl rfl, answers_of_pack rfl (hword _) hwarn, answers_of_pack rfl rfl rfl,
    answers_of_pack rfl (hword _) hwarn, answers_of_pack rfl rfl rfl, answers_of_pack rfl (hword _) hwarn⟩

/-- Settles O25: each field of the halfword is read as a number. -/
theorem knownMnemonicsProduceTheirPatterns : Obligations.KnownMnemonicsProduceTheirPatterns := by
  intro s rd rn rm imm8
  refine ⟨fun hrd => ?_, fun hrd => ?_, fun ⟨hrd, hrn, hrm⟩ => ?_, fun hregs => ?_⟩
  · obtain ⟨w, hpack, -, hbits, hd, himm8⟩ := movImm_word s.cfg hrd imm8
    refine ⟨w, answers_of_pack rfl hpack rfl, ?_, toNat_extractLsb'_of_low hrd hd,
      toNat_extractLsb'_of_getSlot himm8 (by decide)⟩
    rw [extractLsb'_of_and_eq hbits (by decide)]
    rfl
  · exact answersError_of_tableError rfl (if_pos hrd) rfl
  · obtain ⟨w, hpack, -, hbits, hd, hn, hm⟩ := addThreeLow_word s.cfg hrd hrn hrm
    refine ⟨w, answers_of_pack rfl hpack rfl, ?_, toNat_extractLsb'_of_low hrm hm, toNat_extractLsb'_of_low hrn hn,
      toNat_extractLsb'_of_low hrd hd⟩
    rw [extractLsb'_of_and_eq hbits (by decide)]
    rfl
  · exact answersError_of_tableError rfl (if_pos hregs) rfl

/-- Settles O33: the halfword has the fixed bits of its row, and each operand is read back from its field. -/
theorem decodeUndoesEncodeForMnemonics : Obligations.DecodeUndoesEncodeForMnemonics := by
  intro cfg rd rn rm imm8
  refine ⟨fun hwf => ?_, fun hwf => ?_⟩
  · obtain ⟨hlow, hfits⟩ : lowOperand rd = true ∧ fits 8 imm8 = true := Bool.and_eq_true_iff.1 hwf
    obtain ⟨w, -, henc, hbits, hd, himm8⟩ := movImm_word cfg ((lowOperand_iff rd).1 hlow) imm8
    refine ⟨[w], henc, ?_⟩
    rw [decode_serialise, decodeWords, decodeHalf_movImm hbits, readReg_low_eq hlow hd, himm8, getSlot_of_fits hfits]
  · obtain ⟨⟨hlowd, hlown⟩, hlowm⟩ : (lowOperand rd = true ∧ lowOperand rn = true) ∧ lowOperand rm = true := by
      simpa only [Instr.wellFormed, Bool.and_eq_true] using hwf
    obtain ⟨w, -, henc, hbits, hd, hn, hm⟩ := addThreeLow_word cfg ((lowOperand_iff rd).1 hlowd)
      ((lowOperand_iff rn).1 hlown) ((lowOperand_iff rm).1 hlowm)
    refine ⟨[w], henc, ?_⟩
    rw [decode_serialise, decodeWords, decodeHalf_addThreeLow hbits, readReg_low_eq hlowd hd, readReg_low_eq hlown hn,
      readReg_low_eq hlowm hm]

/-- Settles O34: a halfword decodes to a command that packs to it, and two halfwords to `T32.no_operand`, whose base
they are. -/
theorem decodedCommandProducesItsWords : Obligations.DecodedCommandProducesItsWords := by
  intro s words i h
  match words, h with
  | [half], h =>
    cases h
    obtain ⟨hwf, p, hp, hpack, hwarn⟩ := decodeHalf_packs s.cfg half
    exact ⟨hwf, _, answers_of_pack hp hpack hwarn, rfl⟩
  | [hi, lo], h =>
    cases h
    refine ⟨rfl, _, answers_of_pack rfl rfl rfl, ?_⟩
    rw [pack, packT32NoOperand, split32_eq, hi16_joinHalves, lo16_joinHalves, wordsOf]

/-- Settles O35: the decoder evaluated on each of the nine words. -/
theorem decodingOfWrittenOutWords : Obligations.DecodingOfWrittenOutWords := by
  unfold Obligations.DecodingOfWrittenOutWords
  decide

end Sys2Proof.Proofs

/-! PROOFS. The 16-bit packers (41_thumb16_packers.md): the halfword of each, bit by bit, and its register fields read
back. -/

namespace Sys2Proof

open Sys2Proof.Machine Sys2Proof.Spec

/-! ### A packed word bit by bit (R62) -/

/-- A register's field is that of its 32-bit value. -/
theorem field_setWidth_reg (lo width src : Nat) (r : Reg) (n : Nat) :
    field lo width src (r.setWidth 32) n = field lo width src r n := by
  rw [field, field, ← reg32, getLsbD_reg32]

/-- The low field of a shifted value is the field from the shifted bit on. -/
theorem field_ushiftRight (lo width src : Nat) (v : Word32) (n : Nat) :
    field lo width 0 (v >>> src) n = field lo width src v n := by
  rw [field, field, BitVec.getLsbD_ushiftRight, Nat.add_zero, Nat.add_comm src]

/-- A value masked into its field has the bits of that field (R62). -/
theorem getLsbD_putSlot_eq_field (f : Slot) (v : Word32) {n : Nat} (hn : n < 32) :
    (putSlot f v).getLsbD n = field f.lo f.width 0 v n := by
  have hin : f.lo ≤ n ∧ n - f.lo < f.width ↔ f.lo ≤ n ∧ n < f.lo + f.width := by omega
  rw [getLsbD_putSlot, field, decide_eq_true hn, Bool.true_and, ← Bool.decide_and, decide_eq_decide.2 hin, Nat.add_zero]

/-- Bit `n` of values packed one after the other over a word with the bit `b` there. -/
def fieldsOver (b : Bool) (n : Nat) : List Slot → List Word32 → Bool
  | f :: fs, v :: vs => fieldsOver (b || field f.lo f.width 0 v n) n fs vs
  | [], _ => b
  | _ :: _, [] => b

/-- The packing law bit by bit: the base OR the field of each value (R62). -/
theorem getLsbD_packOver (w : Word32) (fs : List Slot) (vs : List Word32) {n : Nat} (hn : n < 32) :
    (packOver w fs vs).getLsbD n = fieldsOver (w.getLsbD n) n fs vs := by
  induction fs generalizing w vs with
  | nil => rfl
  | cons f fs ih =>
    cases vs with
    | nil => rfl
    | cons v vs => rw [packOver, fieldsOver, ih, BitVec.getLsbD_or, getLsbD_putSlot_eq_field f v hn]

/-! ### What a 16-bit packer answers -/

section

variable {i : Instr} {s : State} {p : Packer} {f : Format} {vs : List Word32}

/-- A 16-bit packer command without an error answers the halfword of its base OR the field of each value (R62, R63). -/
theorem answersHalf_of_fieldValues {base : Half} (hp : i.asPacker = some p)
    (hv : fieldValues s.cfg p = some (f, base.setWidth 32, vs)) (hok : tableError s.cfg i = none)
    (hf : formatHalves f = 1) (hwarn : warnShiftPair p = false) :
    answersHalf i s fun n => fieldsOver (base.getLsbD n) n (formatSlots f) vs := by
  obtain ⟨f', base', vs', hv', hpack⟩ := followsTable_of_no_tableError hp hok
  cases hv.symm.trans hv'
  rw [formatOpcode_half hf, packFields_eq] at hpack
  refine ⟨_, answers_of_pack hp hpack hwarn, fun n hn => ?_⟩
  rw [getLsbD_lo16, getLsbD_packOver _ _ _ (show n < 32 by omega), BitVec.getLsbD_setWidth, decide_eq_true hn,
    decide_eq_true (show n < 32 by omega), Bool.true_and, Bool.true_and]

/-- Over a base that is zero in the format's fields, the halfword answered holds each value in its field (R110). -/
theorem exists_answer_holdsFields {base : Word32} (hp : i.asPacker = some p)
    (hv : fieldValues s.cfg p = some (f, base, vs)) (hok : tableError s.cfg i = none) (hf : formatHalves f = 1)
    (hclear : base &&& f.operandMask = 0) (hwarn : warnShiftPair p = false) :
    ∃ w : Half, answers i s (.opcode (.thumb16 w)) false ∧ HoldsFields (w.setWidth 32) (formatSlots f) vs := by
  obtain ⟨w, hpack, -, hcarries⟩ := exists_half_carries hp hv hok hf hclear
  exact ⟨w, answers_of_pack hp hpack hwarn, hcarries.fields⟩

/-- The formats with low registers at [2:0] and [5:3] and base 0: both are read back, whatever fields follow (R110). -/
theorem exists_answer_two_low {fs : List Slot} {rd rm : Reg} (hrd : rd.toNat ≤ 7) (hrm : rm.toNat ≤ 7)
    (hp : i.asPacker = some p) (hv : fieldValues s.cfg p = some (f, 0, rd.setWidth 32 :: rm.setWidth 32 :: vs))
    (hslots : formatSlots f = ⟨0, 3⟩ :: ⟨3, 3⟩ :: fs) (hok : tableError s.cfg i = none) (hf : formatHalves f = 1)
    (hwarn : warnShiftPair p = false) :
    ∃ w : Half, answers i s (.opcode (.thumb16 w)) false ∧
      (w.extractLsb' 0 3).toNat = rd.toNat ∧ (w.extractLsb' 3 3).toNat = rm.toNat := by
  obtain ⟨w, hanswers, hfields⟩ := exists_answer_holdsFields hp hv hok hf BitVec.zero_and hwarn
  rw [hslots] at hfields
  obtain ⟨hd, hm, -⟩ := hfields
  exact ⟨w, hanswers, toNat_extractLsb'_of_low hrd hd, toNat_extractLsb'_of_low hrm hm⟩

end

/-- `T16.imm` of a width that has a format, in a row of its own or with the width as an operand (R101). -/
theorem answersHalf_t16Imm {i : Instr} {s : State} {base : Half} {width : Nat} {imm : Imm} (hw : width ∈ [7, 8, 11])
    (hp : i.asPacker = some (.t16Imm base width imm)) (hok : tableError s.cfg i = none) :
    answersHalf i s fun n => base.getLsbD n || field 0 width 0 imm n := by
  obtain rfl | rfl | rfl : width = 7 ∨ width = 8 ∨ width = 11 := by simpa using hw
  all_goals exact answersHalf_of_fieldValues hp rfl hok rfl rfl

/-! ### The register check of the low formats (R80, R90) -/

theorem not_high_two {rd rm : Reg} (h : rd.toNat ≤ 7 ∧ rm.toNat ≤ 7) : ¬(7 < rd.toNat ∨ 7 < rm.toNat) := by omega

theorem not_high_three {rd rn rm : Reg} (h : rd.toNat ≤ 7 ∧ rn.toNat ≤ 7 ∧ rm.toNat ≤ 7) :
    ¬(7 < rd.toNat ∨ 7 < rn.toNat ∨ 7 < rm.toNat) := by omega

end Sys2Proof

namespace Sys2Proof.Proofs

open Sys2Proof.Machine Sys2Proof.Spec

/-- Settles O2: the widths with a format pack the one field, and any other width is the table's error. -/
theorem t16ImmMasksToItsWidth : Obligations.T16ImmMasksToItsWidth := by
  intro s base imm
  refine ⟨answersHalf_t16Imm (by decide) rfl rfl, answersHalf_t16Imm (by decide) rfl rfl,
    answersHalf_t16Imm (by decide) rfl rfl, fun width => ⟨fun hw => ?_, fun hw => ?_⟩⟩
  · exact answersHalf_t16Imm hw rfl (if_pos hw)
  · exact answersError_of_tableError rfl (if_neg hw) rfl

/-- Settles O3: the table's error for a high register, and else the format's two fields. -/
theorem t16RegImm8PlacesItsFields : Obligations.T16RegImm8PlacesItsFields := by
  intro s base rd imm8
  refine ⟨fun hrd => ?_, fun hrd => answersError_of_tableError rfl (if_pos hrd) rfl⟩
  simpa only [formatSlots, fieldsOver, field_setWidth_reg] using
    answersHalf_of_fieldValues (i := .t16RegImm8 base rd imm8) (s := s) rfl rfl (if_neg (Nat.not_lt.2 hrd)) rfl rfl

/-- Settles O4: the table's error for a high register, and else the format's three fields. -/
theorem t16RegImm5PlacesItsFields : Obligations.T16RegImm5PlacesItsFields := by
  intro s base rd rm imm5
  refine ⟨fun hregs => ?_, fun hregs => answersError_of_tableError rfl (if_pos hregs) rfl⟩
  simpa only [formatSlots, fieldsOver, field_setWidth_reg] using
    answersHalf_of_fieldValues (i := .t16RegImm5 base rd rm imm5) (s := s) rfl rfl (if_neg (not_high_two hregs)) rfl rfl

/-- Settles O5: the table's error for a high register, and else the format's two fields. -/
theorem t16TwoLowPlacesItsFields : Obligations.T16TwoLowPlacesItsFields := by
  intro s base rd rm
  refine ⟨fun hregs => ?_, fun hregs => answersError_of_tableError rfl (if_pos hregs) rfl⟩
  simpa only [formatSlots, fieldsOver, field_setWidth_reg] using
    answersHalf_of_fieldValues (i := .t16TwoLow base rd rm) (s := s) rfl rfl (if_neg (not_high_two hregs)) rfl rfl

/-- Settles O6: the table's error for a high register, and else the format's three fields. -/
theorem t16ThreeLowPlacesItsFields : Obligations.T16ThreeLowPlacesItsFields := by
  intro s base rd rn rm
  refine ⟨fun hregs => ?_, fun hregs => answersError_of_tableError rfl (if_pos hregs) rfl⟩
  simpa only [formatSlots, fieldsOver, field_setWidth_reg] using
    answersHalf_of_fieldValues (i := .t16ThreeLow base rd rn rm) (s := s) rfl rfl (if_neg (not_high_three hregs)) rfl rfl

/-- Settles O7: the table's error for a high register, and else the format's three fields. -/
theorem t16TwoLowImm3PlacesItsFields : Obligations.T16TwoLowImm3PlacesItsFields := by
  intro s base rd rm imm3
  refine ⟨fun hregs => ?_, fun hregs => answersError_of_tableError rfl (if_pos hregs) rfl⟩
  simpa only [formatSlots, fieldsOver, field_setWidth_reg] using
    answersHalf_of_fieldValues (i := .t16TwoLowImm3 base rd rm imm3) (s := s) rfl rfl (if_neg (not_high_two hregs)) rfl
      rfl

/-- Settles O8: no operand has an error, and the format has one field of four bits. -/
theorem t16OneAnyPlacesItsField : Obligations.T16OneAnyPlacesItsField := by
  intro s base rm
  simpa only [formatSlots, fieldsOver, field_setWidth_reg] using
    answersHalf_of_fieldValues (i := .t16OneAny base rm) (s := s) rfl rfl rfl rfl rfl

/-- Settles O9: the table places bit 3 of `r1` first, as the low bit of `r1 >>> 3`. -/
theorem t16TwoAnyDisplacesTheHighBit : Obligations.T16TwoAnyDisplacesTheHighBit := by
  intro s base r1 r2
  simpa only [formatSlots, fieldsOver, field_ushiftRight, field_setWidth_reg,
    Bool.or_right_comm _ (field 7 1 3 r1 _)] using
    answersHalf_of_fieldValues (i := .t16TwoAny base r1 r2) (s := s) rfl rfl rfl rfl rfl

/-- Settles O26: over base 0 each low register is read back from its field, and a high one is the table's error. -/
theorem lowRegisterFieldIsolation : Obligations.LowRegisterFieldIsolation := by
  intro s rd rn rm imm
  refine ⟨fun hrd => ?_, fun hrd => answersError_of_tableError rfl (if_pos hrd) rfl, fun hregs => ?_, fun hregs => ?_,
    fun hregs => ?_, fun hregs => answersError_of_tableError rfl (if_pos hregs) rfl⟩
  · obtain ⟨w, hanswers, hd, -⟩ := exists_answer_holdsFields (i := .t16RegImm8 0 rd imm) (s := s) rfl rfl
      (if_neg (Nat.not_lt.2 hrd)) rfl (by decide) rfl
    exact ⟨w, hanswers, toNat_extractLsb'_of_low hrd hd⟩
  · have hok := not_high_two hregs
    obtain ⟨hrd, hrm⟩ := hregs
    exact ⟨exists_answer_two_low hrd hrm rfl rfl rfl (if_neg hok) rfl rfl,
      exists_answer_two_low hrd hrm rfl rfl rfl (if_neg hok) rfl rfl,
      exists_answer_two_low hrd hrm rfl rfl rfl (if_neg hok) rfl rfl⟩
  · exact ⟨answersError_of_tableError rfl (if_pos hregs) rfl, answersError_of_tableError rfl (if_pos hregs) rfl,
      answersError_of_tableError rfl (if_pos hregs) rfl⟩
  · obtain ⟨w, hanswers, hd, hn, hm, -⟩ := exists_answer_holdsFields (i := .t16ThreeLow 0 rd rn rm) (s := s) rfl rfl
      (if_neg (not_high_three hregs)) rfl (by decide) rfl
    obtain ⟨hrd, hrn, hrm⟩ := hregs
    exact ⟨w, hanswers, toNat_extractLsb'_of_low hrd hd, toNat_extractLsb'_of_low hrn hn,
      toNat_extractLsb'_of_low hrm hm⟩

/-- Settles O1: the packed opcode is the base. -/
theorem t16NoOperandReturnsItsBase : Obligations.T16NoOperandReturnsItsBase :=
  fun _ _ => answers_of_pack rfl rfl rfl

end Sys2Proof.Proofs

/-! PROOFS. The 32-bit field packers (42_thumb32_packers.md): the word of each, bit by bit, and the shift operand under
both policies. -/

namespace Sys2Proof

open Sys2Proof.Machine Sys2Proof.Spec

/-! ### The fields of the 32-bit formats bit by bit (R64) -/

/-- A flag packed in a field of one bit is the flag at that place (R70). -/
theorem field_bitValue (pos : Nat) (b : Bool) (n : Nat) : field pos 1 0 (bitValue b) n = bitAtPlace pos b n := by
  have hin : pos ≤ n ∧ n < pos + 1 ↔ n = pos := by omega
  rw [field, bitAtPlace, decide_eq_decide.2 hin]
  by_cases h : n = pos
  · subst h
    cases b <;> simp [bitValue]
  · rw [decide_eq_false h, Bool.false_and, Bool.false_and]

/-- The code of the table, packed at [5:4], is the shift field (R69). -/
theorem field_shiftTableCode (shift : ShiftType) (n : Nat) :
    field 4 2 0 (shiftTableCode shift) n = shiftField shift n := by
  by_cases h : 4 ≤ n ∧ n < 4 + 2
  · obtain rfl | rfl : n = 4 ∨ n = 5 := by omega
    all_goals cases shift <;> decide
  · rw [field, decide_eq_false h, Bool.false_and]
    cases shift <;> simp [shiftField] <;> omega

/-- The three fields of imm12, packed one after the other (R67). -/
theorem fieldsOver_imm12Values (b : Bool) (n : Nat) (fs : List Slot) (v : Imm) (vs : List Word32) :
    fieldsOver b n (⟨26, 1⟩ :: ⟨12, 3⟩ :: ⟨0, 8⟩ :: fs) (imm12Values v ++ vs) =
      fieldsOver (b || imm12Fields v n) n fs vs := by
  simp only [imm12Values, List.cons_append, List.nil_append, fieldsOver, field_ushiftRight, imm12Fields, Bool.or_assoc]

/-- The two fields of imm5, packed one after the other (R68). -/
theorem fieldsOver_imm5Values (b : Bool) (n : Nat) (fs : List Slot) (v : Imm) (vs : List Word32) :
    fieldsOver b n (⟨12, 3⟩ :: ⟨6, 2⟩ :: fs) (imm5Values v ++ vs) = fieldsOver (b || imm5Fields v n) n fs vs := by
  simp only [imm5Values, List.cons_append, List.nil_append, fieldsOver, field_ushiftRight, imm5Fields, Bool.or_assoc]

/-- imm12 as the last operand (R67). -/
theorem fieldsOver_imm12Values_last (b : Bool) (n : Nat) (v : Imm) :
    fieldsOver b n [⟨26, 1⟩, ⟨12, 3⟩, ⟨0, 8⟩] (imm12Values v) = (b || imm12Fields v n) :=
  fieldsOver_imm12Values b n [] v []

/-! ### What a 32-bit packer answers -/

section

variable {i : Instr} {s : State} {p : Packer} {f : Format} {base : Word32} {vs : List Word32} {bits : Nat → Bool}

/-- A 32-bit packer command without an error answers the halves of its base OR the field of each value (R62, R64). -/
theorem answersWord_of_fieldValues {warn : Bool} (hp : i.asPacker = some p)
    (hv : fieldValues s.cfg p = some (f, base, vs)) (hok : tableError s.cfg i = none) (hf : formatHalves f = 2)
    (hwarn : warnShiftPair p = warn) (hbits : ∀ n, fieldsOver (base.getLsbD n) n (formatSlots f) vs = bits n) :
    answersWord i s warn bits := by
  obtain ⟨f', base', vs', hv', hpack⟩ := followsTable_of_no_tableError hp hok
  cases hv.symm.trans hv'
  rw [formatOpcode_word hf, packFields_eq] at hpack
  refine ⟨_, _, answers_of_pack hp hpack hwarn, fun n hn => ?_, fun n hn => ?_⟩
  · rw [getLsbD_lo16, decide_eq_true hn, Bool.true_and, getLsbD_packOver _ _ _ (by omega), hbits]
  · rw [getLsbD_hi16, decide_eq_true hn, Bool.true_and, getLsbD_packOver _ _ _ (by omega), hbits, Nat.add_comm]

/-- A packer command whose errors are those of a shift operand: the packed word with the sideband of R130 where the
operand is not refused, and EncodeError with the same sideband where it is (R92, R130). -/
theorem answers_of_shift {imm5 : Imm} {shift : ShiftType} (hp : i.asPacker = some p)
    (hv : fieldValues s.cfg p = some (f, base, vs)) (hf : formatHalves f = 2)
    (herr : tableError s.cfg i = tableError s.cfg (.t32TwoRegImm5Shift 0 0 0 imm5 shift))
    (hwarn : warnShiftPair p = ambiguousPair shift imm5)
    (hbits : ∀ n, fieldsOver (base.getLsbD n) n (formatSlots f) vs = bits n) :
    (¬shiftRefused s.cfg shift imm5 → answersWord i s (crossedPair shift imm5) bits) ∧
      (shiftRefused s.cfg shift imm5 → answersError i s .encodeError (crossedPair shift imm5)) := by
  rw [ambiguousPair_eq_crossedPair] at hwarn
  refine ⟨fun h => ?_, fun h => ?_⟩
  · exact answersWord_of_fieldValues hp hv (herr.trans ((tableError_shift_none ..).2 h)) hf hwarn hbits
  · exact answersError_of_tableError hp (herr.trans ((tableError_shift ..).2 ⟨h, rfl⟩)) hwarn

end

end Sys2Proof

namespace Sys2Proof.Proofs

open Sys2Proof.Machine Sys2Proof.Spec

/-- Settles O11: one register field, then imm12. -/
theorem t32OneRegImm12PlacesItsFields : Obligations.T32OneRegImm12PlacesItsFields := by
  intro s base rd imm12
  refine answersWord_of_fieldValues rfl rfl rfl rfl rfl fun n => ?_
  simp only [formatSlots, fieldsOver, field_setWidth_reg, fieldsOver_imm12Values_last]

/-- Settles O12: two register fields, then imm12. -/
theorem t32TwoRegImm12PlacesItsFields : Obligations.T32TwoRegImm12PlacesItsFields := by
  intro s base rd rn imm12
  refine answersWord_of_fieldValues rfl rfl rfl rfl rfl fun n => ?_
  simp only [formatSlots, fieldsOver, field_setWidth_reg, fieldsOver_imm12Values_last]

/-- Settles O13: the fields of `T32.two_reg_imm12`, then `sf` as a field of one bit. -/
theorem t32TwoRegImm12SfPlacesItsFields : Obligations.T32TwoRegImm12SfPlacesItsFields := by
  intro s base rd rn imm12 sf
  refine answersWord_of_fieldValues rfl rfl rfl rfl rfl fun n => ?_
  simp only [formatSlots, fieldsOver, field_setWidth_reg, fieldsOver_imm12Values, field_bitValue]

/-- Settles O14: two register fields, imm5, and `sf` as a field of one bit. -/
theorem t32TwoRegImm5SfPlacesItsFields : Obligations.T32TwoRegImm5SfPlacesItsFields := by
  intro s base rd rn imm5 sf
  refine answersWord_of_fieldValues rfl rfl rfl rfl rfl fun n => ?_
  simp only [formatSlots, fieldsOver, field_setWidth_reg, fieldsOver_imm5Values, field_bitValue]

/-- Settles O15: the errors are those of the shift operand; else two register fields, imm5 and the shift code. -/
theorem t32TwoRegImm5ShiftPlacesItsFields : Obligations.T32TwoRegImm5ShiftPlacesItsFields := by
  intro s base rd rn imm5 shift
  refine answers_of_shift rfl rfl rfl rfl rfl fun n => ?_
  simp only [formatSlots, fieldsOver, field_setWidth_reg, fieldsOver_imm5Values, field_shiftTableCode]

/-- Settles O16: as `T32.two_reg_imm5_shift`, with `sf` after the shift code. -/
theorem t32TwoRegImm5ShiftSfPlacesItsFields : Obligations.T32TwoRegImm5ShiftSfPlacesItsFields := by
  intro s base rd rn imm5 shift sf
  refine answers_of_shift rfl rfl rfl rfl rfl fun n => ?_
  simp only [formatSlots, fieldsOver, field_setWidth_reg, fieldsOver_imm5Values, field_shiftTableCode, field_bitValue]

/-- Settles O17: three register fields. -/
theorem t32ThreeRegPlacesItsFields : Obligations.T32ThreeRegPlacesItsFields := by
  intro s base rd rn rm
  refine answersWord_of_fieldValues rfl rfl rfl rfl rfl fun n => ?_
  simp only [formatSlots, fieldsOver, field_setWidth_reg]

/-- Settles O18: three register fields, then `sf` as a field of one bit. -/
theorem t32ThreeRegSfPlacesItsFields : Obligations.T32ThreeRegSfPlacesItsFields := by
  intro s base rd rn rm sf
  refine answersWord_of_fieldValues rfl rfl rfl rfl rfl fun n => ?_
  simp only [formatSlots, fieldsOver, field_setWidth_reg, field_bitValue]

/-- Settles O19: the errors are those of the shift operand; else three registers, imm5, the shift code and `sf`. -/
theorem t32ThreeRegImm5ShiftSfPlacesItsFields : Obligations.T32ThreeRegImm5ShiftSfPlacesItsFields := by
  intro s base rd rn rm imm5 shift sf
  refine answers_of_shift rfl rfl rfl rfl rfl fun n => ?_
  simp only [formatSlots, fieldsOver, field_setWidth_reg, fieldsOver_imm5Values, field_shiftTableCode, field_bitValue]

/-- Settles O10: the format has no fields, so the word is the base. -/
theorem t32NoOperandSplitsItsBase : Obligations.T32NoOperandSplitsItsBase :=
  fun _ _ => answersWord_of_fieldValues rfl rfl rfl rfl rfl fun _ => rfl

end Sys2Proof.Proofs

/-! PROOFS. The branch packers (43_branch_displacement.md): the word of each form, where the two differ, and which
displacements come back from it. -/

namespace Sys2Proof

open Sys2Proof.Machine Sys2Proof.Spec

/-! ### The branch fields bit by bit (R141 to R143) -/

/-- A displacement's values, packed one after the other, are the branch fields (R71). -/
theorem fieldsOver_dispValues (b : Bool) (n : Nat) (cfg : Config) (j : Bool → Bool → Bool) (d : Disp) :
    fieldsOver b n [⟨26, 1⟩, ⟨16, 10⟩, ⟨13, 1⟩, ⟨11, 1⟩, ⟨0, 11⟩] (dispValues cfg j d) =
      (b || branchFields cfg j d n) := by
  simp only [dispValues, fieldsOver, field_bitValue, field_ushiftRight, branchFields, Bool.or_assoc]

/-- The branch fields of two J rules differ at bit 13 where the rules differ on I1, at bit 11 where they differ on I2,
and nowhere else (R146). -/
theorem branchFields_ne_iff (cfg : Config) (j j' : Bool → Bool → Bool) (d : Disp) (n : Nat) :
    branchFields cfg j d n ≠ branchFields cfg j' d n ↔
      n = 13 ∧ j (d.getLsbD cfg.dispSBit.val) (d.getLsbD cfg.dispI1Bit.val) ≠
        j' (d.getLsbD cfg.dispSBit.val) (d.getLsbD cfg.dispI1Bit.val) ∨
      n = 11 ∧ j (d.getLsbD cfg.dispSBit.val) (d.getLsbD cfg.dispI2Bit.val) ≠
        j' (d.getLsbD cfg.dispSBit.val) (d.getLsbD cfg.dispI2Bit.val) := by
  by_cases h13 : n = 13
  · subst h13
    simp [branchFields, bitAtPlace, field]
  · by_cases h11 : n = 11
    · subst h11
      simp [branchFields, bitAtPlace, field]
    · simp [branchFields, bitAtPlace, h13, h11]

/-- `S == I` and I differ exactly where S is 0 (R146). -/
theorem beq_ne_right_iff (s i : Bool) : (s == i) ≠ i ↔ s = false := by revert s i; decide

/-- The words of the two forms differ where S is 0, at those of the bits 13 and 11 that the base leaves zero (R146). -/
theorem branchForms_ne_iff (cfg : Config) (base : Word32) (d : Disp) (n : Nat) :
    (base.getLsbD n || branchFields cfg (fun s i => s == i) d n) ≠
        (base.getLsbD n || branchFields cfg (fun _ i => i) d n) ↔
      base.getLsbD n = false ∧ (n = 13 ∨ n = 11) ∧ d.getLsbD cfg.dispSBit.val = false := by
  have hfields := branchFields_ne_iff cfg (fun s i => s == i) (fun _ i => i) d n
  rw [beq_ne_right_iff, beq_ne_right_iff, ← or_and_right] at hfields
  rw [← hfields]
  cases base.getLsbD n <;> simp

/-! ### Which displacements come back (R144, R145) -/

/-- `representable(d)` as a proposition (R145). -/
theorem representable_iff (cfg : Config) (d : Disp) :
    representable cfg d = true ↔ d.getLsbD 0 = false ∧
      ∀ n < 32, n ≠ 0 → cfg.readsDispBit n = false → d.getLsbD n = d.getLsbD cfg.dispSBit.val := by
  simp only [representable, Bool.and_eq_true, Bool.not_eq_true', List.all_eq_true, List.mem_range, Bool.or_eq_true,
    beq_iff_eq]
  refine and_congr_right fun _ => forall₂_congr fun n _ => ?_
  rw [or_assoc, or_iff_not_imp_left, or_iff_not_imp_left, Bool.not_eq_true]

/-- R141 reads bit 0 only where an index is 0. -/
theorem readsDispBit_zero {cfg : Config} (hs : cfg.dispSBit ≠ 0) (hi1 : cfg.dispI1Bit ≠ 0) (hi2 : cfg.dispI2Bit ≠ 0) :
    cfg.readsDispBit 0 = false := by
  have hne {i : Fin 32} (h : i ≠ 0) : (0 == i.val) = false := beq_false_of_ne fun h0 => h (Fin.ext h0.symm)
  rw [Config.readsDispBit, hne hs, hne hi1, hne hi2]
  rfl

/-- A displacement is the one its fields reassemble to exactly where it is representable, if none of its fields is at
the implicit bit 0 (R144, R145). -/
theorem reassemble_eq_iff_representable {cfg : Config} (hzero : cfg.readsDispBit 0 = false) (d : Disp) :
    reassemble cfg (d.getLsbD cfg.dispSBit.val) (d.getLsbD cfg.dispI1Bit.val) (d.getLsbD cfg.dispI2Bit.val)
      (getSlot 0 10 (d >>> 12)) (getSlot 0 11 (d >>> 1)) = d ↔ representable cfg d = true := by
  refine ⟨fun h => ?_, reassemble_of_representable⟩
  have hunread {n : Nat} (hn : n < 32) (hread : cfg.readsDispBit n = false) :
      (decide (n ≠ 0) && d.getLsbD cfg.dispSBit.val) = d.getLsbD n := by
    have hbit := getLsbD_reassemble cfg d hn
    rw [h, hread] at hbit
    exact hbit.symm
  refine (representable_iff cfg d).2 ⟨(hunread (by decide) hzero).symm, fun n hn h0 hread => ?_⟩
  rw [← hunread hn hread, decide_eq_true h0, Bool.true_and]

/-- The unconditional form gives back exactly the representable displacements (R144, R145). -/
theorem decodeBranch_eq_iff {cfg : Config} {w : Word32} {d : Disp} (hzero : cfg.readsDispBit 0 = false)
    (h : HoldsFields w (formatSlots .t32Branch) (dispValues cfg (fun s i => s == i) d)) :
    decodeBranch cfg w = d ↔ representable cfg d = true := by
  obtain ⟨hs, himm10, hj1, hj2, himm11, -⟩ := h
  have hreturn (s i : Bool) : (if (s == i) = true then s else !s) = i := by revert s i; decide
  rw [decodeBranch, getLsbD_of_bitValue hs, getLsbD_of_bitValue hj1, getLsbD_of_bitValue hj2, himm10, himm11, hreturn,
    hreturn, reassemble_eq_iff_representable hzero]

/-- The conditional form gives back exactly the representable displacements (R144, R145). -/
theorem decodeCond_eq_iff {cfg : Config} {w : Word32} {d : Disp} (hzero : cfg.readsDispBit 0 = false)
    (h : HoldsFields w (formatSlots .t32CondBranch) (dispValues cfg (fun _ i => i) d)) :
    decodeCond cfg w = d ↔ representable cfg d = true := by
  obtain ⟨hs, himm10, hj1, hj2, himm11, -⟩ := h
  rw [decodeCond, getLsbD_of_bitValue hs, getLsbD_of_bitValue hj1, getLsbD_of_bitValue hj2, himm10, himm11,
    reassemble_eq_iff_representable hzero]

/-- Over a base that is zero in the format's fields, the two halfwords answered hold each value in its field (R62,
R95). -/
theorem exists_answer_holdsFields_word {i : Instr} {s : State} {p : Packer} {f : Format} {base : Word32}
    {vs : List Word32} (hp : i.asPacker = some p) (hv : fieldValues s.cfg p = some (f, base, vs))
    (hok : tableError s.cfg i = none) (hf : formatHalves f = 2) (hclear : base &&& f.operandMask = 0)
    (hwarn : warnShiftPair p = false) :
    ∃ hi lo : Half, answers i s (.opcode (.thumb32 hi lo)) false ∧
      HoldsFields (joinHalves hi lo) (formatSlots f) vs := by
  obtain ⟨f', base', vs', hv', hpack⟩ := followsTable_of_no_tableError hp hok
  cases hv.symm.trans hv'
  refine ⟨_, _, answers_of_pack hp (hpack.trans (formatOpcode_word hf _)) hwarn, ?_⟩
  rw [joinHalves_hi16_lo16]
  exact (packFields_carries hclear vs).fields

/-! ### The interval that does not depend on the indices (R145) -/

/-- A number of `k + 1` bits in two's complement has its sign at bit `k` and at every bit above. -/
theorem getLsbD_eq_msb_of_bounds {w k n : Nat} {v : BitVec w} (hlo : -2 ^ k ≤ v.toInt) (hhi : v.toInt < 2 ^ k)
    (hk : k ≤ n) (hn : n < w) : v.getLsbD n = v.msb := by
  have htoInt : (BitVec.ofInt (k + 1) v.toInt).toInt = v.toInt := BitVec.toInt_ofInt_eq_self k.succ_pos hlo hhi
  have hext : (BitVec.ofInt (k + 1) v.toInt).signExtend w = v := by rw [BitVec.signExtend, htoInt, BitVec.ofInt_toInt]
  have hmsb : (BitVec.ofInt (k + 1) v.toInt).msb = v.msb := by rw [BitVec.msb_eq_toInt, htoInt, ← BitVec.msb_eq_toInt]
  conv_lhs => rw [← hext, BitVec.getLsbD_signExtend, decide_eq_true hn, Bool.true_and]
  split
  · obtain rfl : n = k := by omega
    rw [← hmsb, BitVec.msb_eq_getLsbD_last, Nat.add_sub_cancel]
  · exact hmsb

/-- R141 reads every bit from 1 to 21. -/
theorem readsDispBit_of_low (cfg : Config) {n : Nat} (h1 : 1 ≤ n) (h21 : n ≤ 21) : cfg.readsDispBit n = true := by
  simp only [Config.readsDispBit, Bool.or_eq_true, Bool.and_eq_true, decide_eq_true_eq]
  omega

/-- An even displacement whose bits from 22 up are all its sign is representable, whatever the indices of I1 and I2, if
S is one of these bits (R145). -/
theorem representable_of_sign {cfg : Config} {d : Disp} (heven : d.getLsbD 0 = false)
    (hsign : ∀ n, 22 ≤ n → n < 32 → d.getLsbD n = d.msb) (hs : 22 ≤ cfg.dispSBit.val) : representable cfg d = true := by
  refine (representable_iff cfg d).2 ⟨heven, fun n hn h0 hread => ?_⟩
  by_cases h22 : 22 ≤ n
  · rw [hsign n h22 hn, hsign _ hs cfg.dispSBit.isLt]
  · rw [readsDispBit_of_low cfg (by omega) (by omega)] at hread
    cases hread

/-- Where every bit from 22 up is the sign, the fields read at indices from 22 up do not depend on the indices
(R141). -/
theorem dispFields_of_sign {cfg : Config} {d : Disp} (hsign : ∀ n, 22 ≤ n → n < 32 → d.getLsbD n = d.msb)
    (hs : 22 ≤ cfg.dispSBit.val) (hi1 : 22 ≤ cfg.dispI1Bit.val) (hi2 : 22 ≤ cfg.dispI2Bit.val) :
    dispFields cfg d = ⟨d.msb, d.msb, d.msb, (d >>> 12).setWidth 10, (d >>> 1).setWidth 11⟩ := by
  rw [dispFields, hsign _ hs cfg.dispSBit.isLt, hsign _ hi1 cfg.dispI1Bit.isLt, hsign _ hi2 cfg.dispI2Bit.isLt]

end Sys2Proof

namespace Sys2Proof.Proofs

open Sys2Proof.Machine Sys2Proof.Spec

/-- Settles O20: no displacement is an error, and the format's five fields are the branch fields. -/
theorem t32BranchDerivesJFromEquality : Obligations.T32BranchDerivesJFromEquality :=
  fun _ _ _ => answersWord_of_fieldValues rfl rfl rfl rfl rfl fun _ => fieldsOver_dispValues ..

/-- Settles O21: as the unconditional form, with the I bits for the J bits. -/
theorem t32CondBranchKeepsRawJ : Obligations.T32CondBranchKeepsRawJ :=
  fun _ _ _ => answersWord_of_fieldValues rfl rfl rfl rfl rfl fun _ => fieldsOver_dispValues ..

/-- Settles O22: the bits of the two words differ at 13 and 11 alone, where S and the base's bit are 0. -/
theorem branchFormsDifferExactlyWhereSIsZero : Obligations.BranchFormsDifferExactlyWhereSIsZero := by
  intro s base d
  obtain ⟨hi, lo, hbranch, hlo, hhi⟩ := t32BranchDerivesJFromEquality s base d
  obtain ⟨hi', lo', hcond, hlo', hhi'⟩ := t32CondBranchKeepsRawJ s base d
  have hdiff := branchForms_ne_iff s.cfg base d
  refine ⟨hi, lo, hi', lo', hbranch, hcond, ?_, fun hs => ?_, fun h13 h11 n hn => ?_⟩
  · refine BitVec.eq_of_getLsbD_eq fun n hn => ?_
    rw [hhi n hn, hhi' n hn]
    exact not_ne_iff.1 (mt (hdiff (n + 16)).1 (by omega))
  · refine BitVec.eq_of_getLsbD_eq fun n hn => ?_
    rw [hlo n hn, hlo' n hn]
    exact not_ne_iff.1 (mt (hdiff n).1 (by simp [hs]))
  · rw [hlo n hn, hlo' n hn]
    refine (hdiff n).trans ⟨And.right, fun h => ⟨?_, h⟩⟩
    obtain ⟨rfl | rfl, -⟩ := h
    · exact h13
    · exact h11

/-- Settles O23: over base 0 the word holds the displacement's fields, and they reassemble to it where it is
representable. -/
theorem branchRoundTripIffRepresentable : Obligations.BranchRoundTripIffRepresentable := by
  intro s d hs hi1 hi2
  have hzero := readsDispBit_zero hs hi1 hi2
  obtain ⟨hi, lo, hbranch, hfields⟩ := exists_answer_holdsFields_word (i := .t32Branch 0 d) (s := s) rfl rfl rfl rfl
    BitVec.zero_and rfl
  obtain ⟨hi', lo', hcond, hfields'⟩ := exists_answer_holdsFields_word (i := .t32CondBranch 0 d) (s := s) rfl rfl rfl
    rfl BitVec.zero_and rfl
  exact ⟨hi, lo, hi', lo', hbranch, hcond, decodeBranch_eq_iff hzero hfields, decodeCond_eq_iff hzero hfields'⟩

/-- Settles O24: in the interval every bit from 22 up is the sign, so the indices of both choices, all from 22 up, read
the same fields. -/
theorem safeIntervalIsIndependentOfTheIndices : Obligations.SafeIntervalIsIndependentOfTheIndices := by
  rintro s s' base d ⟨hs, hi1, hi2⟩ ⟨hs', hi1', hi2'⟩ heven hlow hhigh
  have hsign (n : Nat) (h22 : 22 ≤ n) (hn : n < 32) : d.getLsbD n = d.msb :=
    getLsbD_eq_msb_of_bounds hlow (Int.lt_of_le_of_lt hhigh (by decide)) h22 hn
  have hfields : dispFields s'.cfg d = dispFields s.cfg d := by
    rw [dispFields_of_sign hsign, dispFields_of_sign hsign] <;> simp [hs, hi1, hi2, hs', hi1', hi2']
  have hbranch : packT32Branch s'.cfg base d = packT32Branch s.cfg base d := by
    rw [packT32Branch, packT32Branch, hfields]
  have hcond : packT32CondBranch s'.cfg base d = packT32CondBranch s.cfg base d := by
    rw [packT32CondBranch, packT32CondBranch, hfields]
  exact ⟨representable_of_sign heven hsign (by simp [hs]),
    ⟨_, answers_of_pack rfl rfl rfl, answers_of_pack rfl hbranch rfl⟩,
    ⟨_, answers_of_pack rfl rfl rfl, answers_of_pack rfl hcond rfl⟩⟩

end Sys2Proof.Proofs

/-! PROOFS. The buffer commands (44_sequence_buffer.md): APPEND with and without room, EMIT as the packer and APPEND,
DRAIN after APPEND, and that a sequence only grows. -/

namespace Sys2Proof.Machine

open Sys2Proof.Spec

/-! ### APPEND (R151 to R154) -/

/-- An opcode has one word or two (R61, R151). -/
theorem length_le_two_of_wordsOf {o : Opcode} {ws : List Half} (h : wordsOf o = some ws) : ws.length ≤ 2 := by
  cases o <;> cases h <;> simp

/-- APPEND of an opcode whose words fit: they stand at the cursor, and the command answers true (R152). -/
theorem exec_append_of_room {s : State} {q : Sequence} {o : Opcode} {ws : List Half} (hq : s.seq = some q)
    (hw : wordsOf o = some ws) (hroom : q.cursor + ws.length ≤ q.capacity) :
    exec (.append o) s = .next ((s.setSeq (q.appended ws)).answer (.appended true) false) := by
  rw [exec_append, appendAndReport_eq hq, hw]
  exact if_pos hroom

/-- APPEND of an opcode without words that fit, an error among them: false, and nothing else changes (R152). -/
theorem answers_append_of_no_room {s : State} {q : Sequence} {o : Opcode} (hq : s.seq = some q)
    (hfull : ∀ ws, wordsOf o = some ws → q.capacity < q.cursor + ws.length) :
    answers (.append o) s (.appended false) false := by
  rw [answers, exec_append, appendAndReport_eq hq]
  cases hw : wordsOf o with
  | none => rfl
  | some ws => exact if_neg (Nat.not_le.2 (hfull ws hw))

/-- APPEND of an error opcode answers false and changes nothing, room or not (R152). -/
theorem answers_append_error {s : State} {q : Sequence} (hq : s.seq = some q) (kind : ErrorKind) :
    answers (.append (.error kind)) s (.appended false) false :=
  answers_append_of_no_room hq fun _ hw => nomatch hw

/-- APPEND of a `Thumb16` without room answers false and changes nothing (R152). -/
theorem answers_append_thumb16_full {s : State} {q : Sequence} (hq : s.seq = some q) (w : Half)
    (hfull : q.capacity < q.cursor + 1) : answers (.append (.thumb16 w)) s (.appended false) false :=
  answers_append_of_no_room hq fun _ hw => by cases hw; exact hfull

/-- APPEND of a `Thumb32` without room for both halfwords answers false and changes nothing (R152). -/
theorem answers_append_thumb32_full {s : State} {q : Sequence} (hq : s.seq = some q) (hi lo : Half)
    (hfull : q.capacity < q.cursor + 2) : answers (.append (.thumb32 hi lo)) s (.appended false) false :=
  answers_append_of_no_room hq fun _ hw => by cases hw; exact hfull

/-- The words appended stand in order from the old cursor on. -/
theorem Sequence.read_appended_inside (q : Sequence) (ws : List Half) {j : Nat} (hj : j < ws.length) :
    (q.appended ws).mem.read (q.cursor + j) = ws[j]? :=
  Memory.read_writeAll_inside q.mem q.cursor ws hj

/-- Cells below the old cursor and from the new one on are as they were. -/
theorem Sequence.read_appended_outside (q : Sequence) (ws : List Half) {k : Nat}
    (hk : k < q.cursor ∨ (q.appended ws).cursor ≤ k) : (q.appended ws).mem.read k = q.mem.read k :=
  Memory.read_writeAll_outside q.mem ws hk

/-! ### APPEND inside a command (R156) -/

/-- APPEND on a state's sequence leaves the sequence and reports the truth value of APPEND on the sequence. -/
theorem appendAndReport_of_append {s : State} {q q' : Sequence} {o : Opcode} {ok : Bool} (hq : s.seq = some q)
    (happ : q.append o = .ok (q', ok)) (report : Bool → Result) (w : Bool) :
    appendAndReport o report w s = .next ((s.setSeq q').answer (report ok) w) := by
  obtain ⟨_, _, happ', heq⟩ := appendAndReport_next hq o report w
  cases happ.symm.trans happ'
  exact heq

/-- APPEND on a sequence always answers a sequence and a truth value; a false one leaves the sequence as it was, and an
error opcode gives a false one (R152). -/
theorem Sequence.exists_append (q : Sequence) (o : Opcode) :
    ∃ q' ok, q.append o = .ok (q', ok) ∧ (ok = false → q' = q) ∧ ((∃ kind, o = .error kind) → ok = false) := by
  refine ⟨_, _, q.append_eq o, ?_⟩
  rcases Sequence.append_cases (q.append_eq o) with ⟨hok, ws, hw, -, -⟩ | ⟨hok, hq', -⟩
  · refine ⟨fun hfalse => absurd (hok.symm.trans hfalse) nofun, ?_⟩
    rintro ⟨kind, rfl⟩
    cases hw
  · exact ⟨fun _ => hq', fun _ => hok⟩

/-! ### The sequence only grows (R157) -/

/-- A command other than CREATE leaves a sequence as it is, or it is APPEND or EMIT and appends an opcode's words. -/
theorem exec_seq_grows {i : Instr} {s t : State} {q : Sequence} (hq : s.seq = some q) (h : exec i s = .next t)
    (hc : ∀ c, i ≠ .create c) :
    t.seq = some q ∨ ∃ ws, t.seq = some (q.appended ws) ∧ ws.length ≤ 2 ∧ q.cursor + ws.length ≤ q.capacity ∧
      ((∃ o, i = .append o) ∨ ∃ p, i = .emit p) := by
  rcases exec_cases h with ht | ⟨c, hi, -⟩ | ⟨q', ws, hq', hroom, ht, hi⟩
  · exact .inl ((State.fields_of_eq_out ht).1.trans hq)
  · exact absurd hi (hc c)
  · cases hq.symm.trans hq'
    have hseq : t.seq = some (q.appended ws) := (State.fields_of_eq_out ht).1
    rcases hi with ⟨o, rfl, hw⟩ | ⟨p, rfl, hw⟩
    · exact .inr ⟨ws, hseq, length_le_two_of_wordsOf hw, hroom, .inl ⟨o, rfl⟩⟩
    · exact .inr ⟨ws, hseq, length_le_two_of_wordsOf hw, hroom, .inr ⟨p, rfl⟩⟩

end Sys2Proof.Machine

namespace Sys2Proof.Proofs

open Sys2Proof.Machine

/-- Settles O38: an error has no words to write, and the words of any other opcode stand in consecutive cells from the
cursor on, or nowhere. -/
theorem appendWritesAllOrNothing : Obligations.AppendWritesAllOrNothing := by
  intro s q hq
  refine ⟨answers_append_error hq, fun w => ⟨fun hroom => ?_, answers_append_thumb16_full hq w⟩,
    fun hi lo => ⟨fun hroom => ?_, answers_append_thumb32_full hq hi lo⟩⟩
  · refine ⟨_, exec_append_of_room (ws := [w]) hq rfl hroom, q.read_appended_inside [w] Nat.zero_lt_one, fun k hk => ?_⟩
    have hout : k < q.cursor ∨ q.cursor + 1 ≤ k := by omega
    exact q.read_appended_outside [w] hout
  · refine ⟨_, exec_append_of_room (ws := [hi, lo]) hq rfl hroom, q.read_appended_inside [hi, lo] Nat.zero_lt_two,
      q.read_appended_inside [hi, lo] Nat.one_lt_two, fun k hk hk' => ?_⟩
    have hout : k < q.cursor ∨ q.cursor + 2 ≤ k := by omega
    exact q.read_appended_outside [hi, lo] hout

/-- Settles O40: under the invariant DRAIN answers the contents, which are the values of the cells in index order. -/
theorem drainReturnsTheWrittenCells : Obligations.DrainReturnsTheWrittenCells :=
  fun _ q hq hinv => ⟨q.contents, exec_drain hq hinv, hinv.length_contents, fun _ hk => hinv.getElem?_contents hk⟩

/-- Settles O41: APPEND and EMIT append the same opcode to the same sequence, and differ in what they report. -/
theorem emitIsPackThenAppend : Obligations.EmitIsPackThenAppend := by
  intro s q i p hq hp
  obtain ⟨q', ok, happ, hfalse, herror⟩ := q.exists_append (pack s.cfg p)
  exact ⟨pack s.cfg p, warnShiftPair p, ok, q', answers_pack hp s, appendAndReport_of_append hq happ _ _,
    appendAndReport_of_append hq happ _ _, hfalse, herror⟩

/-- Settles O43: APPEND keeps the invariant and adds the words to the contents, which is what DRAIN answers. -/
theorem drainGrowsByTheAppendedWords : Obligations.DrainGrowsByTheAppendedWords := by
  intro s q o words hq hinv hw hroom
  refine ⟨q.contents, _, exec_drain hq hinv, exec_append_of_room hq hw hroom, rfl, ?_⟩
  rw [← hinv.contents_appended words]
  exact exec_drain rfl (hinv.appended hroom)

/-- Settles O48: the sequence is as it was, or an opcode's one or two words are appended to it. -/
theorem sequenceIsAppendOnly : Obligations.SequenceIsAppendOnly := by
  intro i s t q hq h hc
  rcases exec_seq_grows hq h hc with hseq | ⟨ws, hseq, hlen, hroom, hi⟩
  · exact ⟨q, hseq, rfl, Nat.le_refl _, Nat.le_add_right _ _, fun _ _ => rfl, absurd rfl, id⟩
  · exact ⟨q.appended ws, hseq, rfl, Nat.le_add_right _ _, Nat.add_le_add_left hlen _,
      fun _ hk => q.read_appended_outside ws hk, fun _ => hi, fun hinv => hinv.appended hroom⟩

/-- Settles O37: the new sequence is `Sequence.create`, which reads nothing of the state. -/
theorem createResetsTheSequence : Obligations.CreateResetsTheSequence :=
  fun s capacity => ⟨Sequence.create capacity, exec_create capacity s, create_capacity capacity, create_cursor capacity,
    Memory.read_nil⟩

/-- Settles O39: at any cursor a `Thumb32` needs a capacity of two at least. -/
theorem tinyBuffersRefuseThumb32 : Obligations.TinyBuffersRefuseThumb32 :=
  fun _ _ hi lo hq hcap => answers_append_thumb32_full hq hi lo (by omega)

end Sys2Proof.Proofs

/-! PROOFS. Errors (60_exceptions.md): a command that reports a failure changes the outputs alone. -/

namespace Sys2Proof.Machine

open Sys2Proof.Spec

/-- APPEND inside any command, of an opcode whose words fit: they stand at the cursor, and the report is that of true
(R152, R156). -/
theorem appendAndReport_of_room {s : State} {q : Sequence} {o : Opcode} {ws : List Half} (hq : s.seq = some q)
    (hw : wordsOf o = some ws) (hroom : q.cursor + ws.length ≤ q.capacity) (report : Bool → Result) (w : Bool) :
    appendAndReport o report w s = .next ((s.setSeq (q.appended ws)).answer (report true) w) := by
  rw [appendAndReport_eq hq, hw]
  exact if_pos hroom

/-- A command that writes the sequence reports no failure (R170, R171): CREATE never does, and APPEND and EMIT of words
that fit report true. -/
theorem exec_eq_out_or_reportsFailure_eq_false {i : Instr} {s t : State} (h : exec i s = .next t) :
    t = { s with out := t.out } ∨ reportsFailure t.out.result = false := by
  rcases exec_cases h with ht | ⟨c, -, rfl⟩ | ⟨q, ws, hq, hroom, -, ⟨o, rfl, hw⟩ | ⟨p, rfl, hw⟩⟩
  · exact .inl ht
  · exact .inr rfl
  · cases h.symm.trans (exec_append_of_room hq hw hroom)
    exact .inr rfl
  · cases h.symm.trans ((exec_emit p s).trans (appendAndReport_of_room hq hw hroom _ _))
    exact .inr rfl

end Sys2Proof.Machine

namespace Sys2Proof.Proofs

open Sys2Proof.Machine

/-- Settles O50: a command that changes more than the outputs has written the sequence, and then it reports no failure. -/
theorem failuresLeaveTheStateAsItWas : Obligations.FailuresLeaveTheStateAsItWas := by
  intro i s t h hfail
  rcases exec_eq_out_or_reportsFailure_eq_false h with ht | hok
  · exact ht
  · exact absurd (hok.symm.trans hfail) Bool.false_ne_true

end Sys2Proof.Proofs
